-- ==== Sys2Proof/Word.lean ====
section
/-! DEFINITION. The widths of CKFB's quantities (spec 00_scope.md rule R5): bytes, the command word and its two
fields, the response word. All of them are unsigned, bit 0 least significant (00_scope.md section 6). -/

namespace Sys2Proof

/-- A byte: the width of ACC, of every operand and of every frame field (BYTE_W, ACC_W). -/
abbrev Byte := BitVec 8

/-- The opcode field `cw[33:32]` (OP_W). -/
abbrev Opcode := BitVec 2

/-- The operand field `cw[31:0]` (ARG_W). -/
abbrev Arg := BitVec 32

/-- A command word `cw` (CW_W), 30_encoding.md rule R34. -/
abbrev CmdWord := BitVec 34

/-- The data of a response `rsp` (RSP_W), 30_encoding.md rule R40. -/
abbrev Rsp := BitVec 40

end Sys2Proof
end

