-- ==== Sys2Proof/Config.lean ====
section
/-! DEFINITION. The implementation parameters of 00_scope.md rule R5: the fixed ones as numbers, the two OPEN ones as
constants with no body. -/

namespace Sys2Proof

/-- SUM_MOD: the modulus of the checksum (R5). -/
def Config.sumMod : Nat := 256

/-- HDR_LEN: the bytes summed into a frame's checksum (R5). -/
def Config.hdrLen : Nat := 4

/-- FRAME_LEN: the bytes of a RequestFrame (R5). -/
def Config.frameLen : Nat := 5

/-- CW_W: the width of a command word in bits (R5). -/
def Config.cwWidth : Nat := 34

/-- ACC after a reset (10_state.md rule R18). -/
def Config.accReset : Byte := 0

/-- ACC_POWERON, OPEN: the byte ACC holds before the first reset and the first CLR (R5; 70_reset_and_hazards.md rule
R91). A free value: no proof can see it (log entry 3). -/
opaque Config.accPowerOn : Byte

/-- F_CLK, OPEN and unused (R5, R96): a clock frequency. Nothing in the model reads it (log entry 7). -/
opaque Config.clockFrequency : Nat

end Sys2Proof
end

