-- ==== Sys2Proof/Machine/Operands.lean ====
section
/-! DEFINITION. The fields of the command word and the assembly of operands from them (30_encoding.md rules R34, R36;
20_memory.md rule R23), in both directions. -/

namespace Sys2Proof.Machine

/-- `op = cw[33:32]` (30_encoding.md rule R34). -/
def opField (cw : CmdWord) : Opcode := cw.extractLsb' 32 2

/-- `arg = cw[31:0]` (30_encoding.md rule R34). -/
def argField (cw : CmdWord) : Arg := cw.extractLsb' 0 32

/-- Byte `k` of an operand field, byte 0 being `arg[7:0]`. -/
def argByte (k : Nat) (arg : Arg) : Byte := arg.extractLsb' (8 * k) 8

/-- ADD's operand, `b = arg[7:0]`; `arg[31:8]` is ignored (30_encoding.md rules R36, R37). -/
def addendOf (arg : Arg) : Byte := argByte 0 arg

/-- BUILD's format/length byte, `f = arg[31:24]` (30_encoding.md rule R36). -/
def formatOf (arg : Arg) : Byte := argByte 3 arg

/-- BUILD's target address, `t = arg[23:16]` (30_encoding.md rule R36). -/
def targetOf (arg : Arg) : Byte := argByte 2 arg

/-- BUILD's source/tester address, `s = arg[15:8]` (30_encoding.md rule R36). -/
def sourceOf (arg : Arg) : Byte := argByte 1 arg

/-- BUILD's command byte, `c = arg[7:0]` (30_encoding.md rule R36). -/
def commandOf (arg : Arg) : Byte := argByte 0 arg

/-- A command word from its two fields, `cw = op ∥ arg`: the opcode in `cw[33:32]` (30_encoding.md rule R34). -/
def wordOf (op : Opcode) (arg : Arg) : CmdWord := BitVec.ofNat 34 (op.toNat * 2 ^ 32 + arg.toNat)

/-- The operand field of ADD as the assembler writes it, `zext_32(b)` (30_encoding.md rule R41). -/
def addendArg (b : Byte) : Arg := b.setWidth 32

/-- The operand field of BUILD, `f ∥ t ∥ s ∥ c`, the format/length byte most significant (20_memory.md rule R23). -/
def headerArg (f t s c : Byte) : Arg :=
  BitVec.ofNat 32 (f.toNat * 2 ^ 24 + t.toNat * 2 ^ 16 + s.toNat * 2 ^ 8 + c.toNat)

/-- `zext_40(v)` of a byte (00_scope.md section 6). -/
def zext40 (v : Byte) : Rsp := v.setWidth 40

end Sys2Proof.Machine
end

