-- ==== Sys2Proof/Syntax.lean ====
section
/-! DEFINITION. The four commands of CKFB, one constructor per row of the opcode table (30_encoding.md rule R35). -/

namespace Sys2Proof

/-- A decoded command. The reserved operand bits (30_encoding.md rule R37) are no part of it: the block ignores them. -/
inductive Instr where
  /-- CLR: clear the accumulator (40_checksum.md rule R53). -/
  | clr
  /-- ADD b: add one byte to the accumulator (40_checksum.md rule R54). -/
  | add (b : Byte)
  /-- RDSUM: read the accumulator (40_checksum.md rule R55). -/
  | rdsum
  /-- BUILD f, t, s, c: build one request frame (41_frame_builder.md rule R61): format/length, target, source, command. -/
  | build (f t s c : Byte)
  deriving DecidableEq, Repr

end Sys2Proof
end

