-- ==== Sys2Proof/Decode.lean ====
section
/-! DEFINITION. Decoding a command word, total on all 2^34 words (30_encoding.md rules R35, R38), and after it the
encoder, which writes every reserved bit as zero (rules R37, R41). A raw number of more than 34 bits is no command word
and is rejected by name. -/

namespace Sys2Proof

open Sys2Proof.Machine

/-- The opcode map of 30_encoding.md rule R35: "look at `cw[33:32]`, nothing else". -/
def decode (cw : CmdWord) : Instr :=
  let op := opField cw
  let arg := argField cw
  if op = 0b00 then .clr
  else if op = 0b01 then .add (addendOf arg)
  else if op = 0b10 then .rdsum
  else .build (formatOf arg) (targetOf arg) (sourceOf arg) (commandOf arg)

/-- Why a raw number is not decoded. -/
inductive DecodeReject where
  /-- The number needs more than the 34 bits that the port `cw` has (30_encoding.md rule R34). -/
  | widerThanCommandWord
  deriving DecidableEq, Repr

/-- Decoding a raw number: the number must fit the 34 bits of `cw`; then every word is a command (rule R38). -/
def decodeNumber (n : Nat) : Except DecodeReject Instr :=
  if n < 2 ^ Config.cwWidth then .ok (decode (BitVec.ofNat 34 n)) else .error .widerThanCommandWord

/-- The mask over the word that selects the opcode, the same for all four rows (30_encoding.md rule R35). -/
def opcodeMask : CmdWord := 0x300000000

/-- The match value of each row of the opcode map under `opcodeMask` (30_encoding.md rule R35). -/
def Instr.matchWord : Instr → CmdWord
  | .clr => 0x000000000
  | .add _ => 0x100000000
  | .rdsum => 0x200000000
  | .build _ _ _ _ => 0x300000000

/-- The canonical word of a command, as the assembler writes it (30_encoding.md rule R41). -/
def encode : Instr → CmdWord
  | .clr => wordOf 0b00 0
  | .add b => wordOf 0b01 (addendArg b)
  | .rdsum => wordOf 0b10 0
  | .build f t s c => wordOf 0b11 (headerArg f t s c)

/-- What the decoder reads from an instruction whose bits are `w`, numbered as the opcode table numbers them: the low
`nbits` bits of `w`, all higher bits zero. The table's numbering is the numbering of `cw`. -/
def decodeTableWord (nbits w : Nat) : Option Instr :=
  match decodeNumber (w % 2 ^ nbits) with
  | .ok i => some i
  | .error _ => none

end Sys2Proof
end

