-- ==== Sys2Proof/Machine/Flags.lean ====
section
/-! DEFINITION. The block's arithmetic. There are no flags and no condition codes (10_state.md rule R13): what another
machine's flag computations would record is dropped here, in the one 8-bit adder and in the checksum function. -/

namespace Sys2Proof.Machine

/-- The adder of ADD: `(a + b) mod 256`, the exact sum taken first, the carry out of bit 7 recorded nowhere
(40_checksum.md rules R54, R57; 10_state.md rule R13). -/
def add8 (a b : Byte) : Byte := BitVec.ofNat 8 ((a.toNat + b.toNat) % Config.sumMod)

/-- `sum8(B)`: the exact integer sum of all the bytes, modulo 256 (40_checksum.md rule R50). -/
def sum8 (bytes : List Byte) : Byte := BitVec.ofNat 8 ((bytes.map BitVec.toNat).sum % Config.sumMod)

end Sys2Proof.Machine
end

