-- ==== Sys2Proof/Machine/Frame.lean ====
section
/-! DEFINITION. The RequestFrame (30_encoding.md rules R30 to R32), the function `frame` (41_frame_builder.md rule R60)
and the packing of a frame into the response word (20_memory.md rule R22). -/

namespace Sys2Proof.Machine

/-- A RequestFrame: five bytes, in the order of transmission (30_encoding.md rule R30; 20_memory.md rule R21). -/
structure RequestFrame where
  /-- position 0, the format/length byte -/
  fmt : Byte
  /-- position 1, the target address -/
  tgt : Byte
  /-- position 2, the source/tester address -/
  src : Byte
  /-- position 3, the command byte -/
  cmd : Byte
  /-- position 4, the checksum -/
  cks : Byte
  deriving DecidableEq, Repr

/-- The frame as the sequence of bytes transmitted, first byte first (20_memory.md rule R21). -/
def RequestFrame.bytes (F : RequestFrame) : List Byte := [F.fmt, F.tgt, F.src, F.cmd, F.cks]

/-- The header: the four caller-supplied bytes, positions 0 to 3 (30_encoding.md rule R32). -/
def RequestFrame.header (F : RequestFrame) : List Byte := [F.fmt, F.tgt, F.src, F.cmd]

/-- `frame(f, t, s, c) = [f, t, s, c, sum8([f, t, s, c])]` (41_frame_builder.md rule R60); nothing is checked (R63). -/
def frame (f t s c : Byte) : RequestFrame :=
  { fmt := f, tgt := t, src := s, cmd := c, cks := sum8 [f, t, s, c] }

/-- `pack40(F) = F0 ∥ F1 ∥ F2 ∥ F3 ∥ F4`, the first byte to transmit most significant (20_memory.md rule R22). -/
def pack40 (F : RequestFrame) : Rsp :=
  BitVec.ofNat 40
    (F.fmt.toNat * 2 ^ 32 + F.tgt.toNat * 2 ^ 24 + F.src.toNat * 2 ^ 16 + F.cmd.toNat * 2 ^ 8 + F.cks.toNat)

end Sys2Proof.Machine
end

