-- ==== Sys2Proof/Machine/State.lean ====
section
/-! DEFINITION. The state of CKFB: the accumulator, which is all the state the spec gives the block (10_state.md rule
R10), and beside it the block's ports as the model carries them (10_state.md rule R17): the samples of the inputs that
the host presents in the coming steps, and the response of the step just taken. -/

namespace Sys2Proof.Machine

/-- What stands on the three input ports in one step (10_state.md rule R17). -/
structure PortIn where
  /-- 1 = this step is a reset -/
  rst : Bool
  /-- 1 = `cw` holds a command to execute in this step -/
  cmdValid : Bool
  /-- the command word; ignored when `cmdValid` is false -/
  cw : CmdWord
  deriving DecidableEq, Repr

/-- The state. `acc` is the block's; `rsp` and `inputs` are the model's own fields for the ports (DESIGN CHOICE, safe:
log entries 1 and 2). -/
structure State where
  /-- ACC, the running checksum (10_state.md rule R10). -/
  acc : Byte
  /-- The response of the step just taken: `none` is `rsp_valid = 0`, `some v` is `rsp_valid = 1` and `rsp = v`
  (30_encoding.md rule R40). Every step writes it and none reads it (10_state.md rule R16). -/
  rsp : Option Rsp
  /-- What the host presents in the coming steps, the next one first; when the list is empty it presents nothing
  (00_scope.md rule R7). -/
  inputs : List PortIn
  deriving DecidableEq, Repr

/-- Why the machine may stop with a fault: never. "No command, with any operand and in any state, faults, traps, is
refused or stalls" (60_exceptions.md rule R80), so there is no constructor (DEDUCED, safe: log entry 6). -/
inductive Fault where
  deriving DecidableEq, Repr

/-- Why the machine may refuse an instruction. -/
inductive Refusal where
  /-- Raised by an arm of `exec` whose instruction has no meaning yet; safe. No arm raises it: all four commands are
  modelled (log entry 6). -/
  | notModelled (mnemonic : String)
  deriving DecidableEq, Repr

/-- The machine right after a reset (10_state.md rule R18; `rsp_valid = 0`, 70_reset_and_hazards.md rule R90), the host
having presented nothing yet (DESIGN CHOICE, safe: log entry 2). -/
def State.reset : State := { acc := Config.accReset, rsp := none, inputs := [] }

/-- The machine after power is applied and before any step, ACC holding the byte `accPowerOn` (10_state.md rule R18),
with `inputs` to come: the parameter ACC_POWERON as an argument. -/
def State.atPowerOn (accPowerOn : Byte) (inputs : List PortIn) : State :=
  { acc := accPowerOn, rsp := none, inputs := inputs }

/-- The power-on state of this block: ACC is the free value ACC_POWERON (70_reset_and_hazards.md rule R91, log entry 3). -/
def State.poweredOn (inputs : List PortIn) : State := State.atPowerOn Config.accPowerOn inputs

end Sys2Proof.Machine
end

