-- ==== Sys2Proof/Machine/Ops.lean ====
section
/-! DEFINITION. The named operations over ACC and the ports, and the two steps that are no command: reset and idle.
There is no memory to read or write (20_memory.md rule R20), and no exception is ever taken and none returned from
(60_exceptions.md rules R80, R83, R84): the one event beside commands that changes the state is reset (R81). -/

namespace Sys2Proof.Machine

/-- `ACC` on the right of `<-` (00_scope.md section 6). -/
def State.readAcc (s : State) : Byte := s.acc

/-- `ACC <- v` (00_scope.md section 6). -/
def State.writeAcc (v : Byte) (s : State) : State := { s with acc := v }

/-- `rsp <- v`: `rsp_valid = 1` and the value `v` (00_scope.md section 6; 30_encoding.md rule R40). -/
def State.respond (v : Rsp) (s : State) : State := { s with rsp := some v }

/-- `rsp <- none`: `rsp_valid = 0` (00_scope.md section 6; 30_encoding.md rule R40). -/
def State.noResponse (s : State) : State := { s with rsp := none }

/-- The sample the host presents in this step; nothing, once its list is exhausted (00_scope.md rule R7;
70_reset_and_hazards.md rule R97). -/
def State.presented (s : State) : PortIn :=
  match s.inputs with
  | [] => { rst := false, cmdValid := false, cw := 0 }
  | p :: _ => p

/-- The state with this step's sample taken off the host's list. -/
def State.consumeInput (s : State) : State := { s with inputs := s.inputs.tail }

/-- What a step is (00_scope.md rule R6; 10_state.md rule R17). -/
inductive Event where
  /-- a reset -/
  | reset
  /-- one command word to execute -/
  | command (cw : CmdWord)
  /-- nothing presented -/
  | idle
  deriving DecidableEq, Repr

/-- The event that a sample of the inputs stands for. Reset wins over a command in the same step, which is then
discarded without being decoded (60_exceptions.md rule R82); `cw` counts only when `cmd_valid = 1` (10_state.md
rule R17). -/
def eventOf (p : PortIn) : Event :=
  if p.rst then .reset else if p.cmdValid then .command p.cw else .idle

/-- A reset step: `ACC <- 0`, no response (70_reset_and_hazards.md rule R90). -/
def State.applyReset (s : State) : State := (s.writeAcc Config.accReset).noResponse

/-- An idle step: nothing happens and `rsp_valid = 0` (10_state.md rule R17). -/
def State.applyIdle (s : State) : State := s.noResponse

/-- A sample with `rst = 1` and no command. -/
def PortIn.ofReset : PortIn := { rst := true, cmdValid := false, cw := 0 }

/-- A sample that presents nothing. -/
def PortIn.ofIdle : PortIn := { rst := false, cmdValid := false, cw := 0 }

/-- A sample that presents the command word `cw`. -/
def PortIn.ofWord (cw : CmdWord) : PortIn := { rst := false, cmdValid := true, cw := cw }

end Sys2Proof.Machine
end

