-- ==== Sys2Proof/Machine/Checksum.lean ====
section
/-! DEFINITION. The checksum generator's commands: CLR, ADD, RDSUM (40_checksum.md rules R53 to R55). -/

namespace Sys2Proof.Machine

/-- CLR: `ACC <- 0; rsp <- none` (40_checksum.md rule R53). -/
def execClr (s : State) : Host.Outcome State Fault Refusal :=
  .next (s.writeAcc 0).noResponse

/-- ADD b: `ACC <- (ACC + b) mod 256; rsp <- none` (40_checksum.md rule R54). -/
def execAdd (b : Byte) (s : State) : Host.Outcome State Fault Refusal :=
  .next (s.writeAcc (add8 s.readAcc b)).noResponse

/-- RDSUM: `rsp <- zext_40(ACC)`, ACC unchanged (40_checksum.md rule R55). -/
def execRdsum (s : State) : Host.Outcome State Fault Refusal :=
  .next (s.respond (zext40 s.readAcc))

end Sys2Proof.Machine
end

