-- ==== Sys2Proof/Machine/FrameBuilder.lean ====
section
/-! DEFINITION. The frame builder's command: BUILD (41_frame_builder.md rules R61 to R63). -/

namespace Sys2Proof.Machine

/-- BUILD f, t, s, c: `rsp <- pack40(frame(f, t, s, c))`; ACC is neither read nor written and no operand is checked
(41_frame_builder.md rules R61, R62, R63). -/
def execBuild (f t sr c : Byte) (s : State) : Host.Outcome State Fault Refusal :=
  .next (s.respond (pack40 (frame f t sr c)))

end Sys2Proof.Machine
end

