-- ==== Sys2Proof/Machine/Dispatch.lean ====
section
/-! DEFINITION. One arm per command, each one direct call of its meaning. -/

namespace Sys2Proof.Machine

def exec (i : Instr) (s : State) : Host.Outcome State Fault Refusal :=
  match i with
  | .clr => Sys2Proof.Machine.execClr s
  | .add b => Sys2Proof.Machine.execAdd b s
  | .rdsum => Sys2Proof.Machine.execRdsum s
  | .build f t sr c => Sys2Proof.Machine.execBuild f t sr c s

end Sys2Proof.Machine
end

