-- ==== Sys2Proof/Machine/Step.lean ====
section
/-! DEFINITION. One step: the block samples what the host presents, and resets, executes the one command, or idles
(00_scope.md rules R6, R7). -/

namespace Sys2Proof.Machine

/-- One step of the block. -/
def step (s : State) : Host.Outcome State Fault Refusal :=
  match eventOf s.presented with
  | .reset => .next s.consumeInput.applyReset
  | .command cw => exec (decode cw) s.consumeInput
  | .idle => .next s.consumeInput.applyIdle

/-- `s` with the command word `w` presented in the very next step, before everything else the host will present. The
block loads no program: a command is pushed to it (10_state.md rule R12; log entry 5). -/
def State.withFetchWord (s : State) (nbits w : Nat) : State :=
  { s with inputs := PortIn.ofWord (BitVec.ofNat 34 (w % 2 ^ nbits)) :: s.inputs }

end Sys2Proof.Machine
end

