-- ==== Sys2Proof/Machine/Catalogue.lean ====
section
/-! DEFINITION. The pseudo-instructions as the commands they expand to (30_encoding.md rule R42; 40_checksum.md rule
R56; 41_frame_builder.md rules R65 to R69), and the K-line addresses their users need (20_memory.md rule R26). Data of
the block's users: the block decodes, compares and checks none of it (41_frame_builder.md rule R63). The literals are
the source's, unaudited (UNVERIFIED, log entry 8). -/

namespace Sys2Proof.Machine

/-- The lowest EcuAddress (20_memory.md rule R26). -/
def ecuAddressFirst : Byte := 0x10

/-- The highest EcuAddress (20_memory.md rule R26). -/
def ecuAddressLast : Byte := 0x3F

/-- The EcuAddress range, both ends included (20_memory.md rule R26). -/
def isEcuAddress (a : Byte) : Bool := ecuAddressFirst ≤ a && a ≤ ecuAddressLast

/-- The addresses the scanner visits, in ascending order: 0x10 to 0x3F (20_memory.md rule R26). -/
def scanAddresses : List Byte :=
  (List.range (ecuAddressLast.toNat + 1 - ecuAddressFirst.toNat)).map
    fun k => BitVec.ofNat 8 (ecuAddressFirst.toNat + k)

/-- The ABS controller's address (20_memory.md rule R26). -/
def absController : Byte := 0x1C

/-- The target of the fast-init wake frame (20_memory.md rule R26). -/
def wakeTarget : Byte := 0x13

/-- The tester's (source) address, position 2 of every catalogue frame (20_memory.md rule R26). -/
def testerAddress : Byte := 0xF1

/-- `COMPUTE b0, ..., bn-1`: CLR, an ADD for each byte, RDSUM (40_checksum.md rule R56). -/
def computeCommands (bytes : List Byte) : List Instr := .clr :: bytes.map Instr.add ++ [.rdsum]

/-- `WAKE`, the fast-init wake frame (41_frame_builder.md rule R65). -/
def wakeCommand : Instr := .build 0x81 wakeTarget testerAddress 0x81

/-- `PROBE A`, the scan probe of any byte `A` (41_frame_builder.md rule R66). -/
def probeCommand (a : Byte) : Instr := .build 0x81 a testerAddress 0x81

/-- `ABSCONN`, the ABS connect frame (41_frame_builder.md rule R67). -/
def absConnCommand : Instr := .build 0x81 absController testerAddress 0x81

/-- `ABSRDTC`, the ABS read-fault-codes frame (41_frame_builder.md rule R68). -/
def absRdtcCommand : Instr := .build 0x80 absController testerAddress 0x21

/-- `ABSACT`, the ABS actuator-test frame, its command byte 0x30 kept as given (41_frame_builder.md rule R69). -/
def absActCommand : Instr := .build 0x80 absController testerAddress 0x30

/-- The samples by which a host presents commands, one a step, in their canonical words. -/
def presentCommands (is : List Instr) : List PortIn := is.map fun i => PortIn.ofWord (encode i)

end Sys2Proof.Machine
end

