-- ==== Sys2Proof/WellFormed.lean ====
section
/-! DEFINITION. Which operands a command may carry: every operand is an unsigned byte (30_encoding.md rules R36, R41).
The byte type of `Instr` already says so; the same check on plain numbers is what the assembler refuses by. -/

namespace Sys2Proof

/-- "An operand outside 0 to 255 is an assembly error" (30_encoding.md rule R41). -/
def operandInRange (n : Nat) : Bool := n < 256

/-- The operands of a command as numbers, in the order of its textual form (30_encoding.md rule R41). -/
def Instr.operands : Instr → List Nat
  | .clr => []
  | .add b => [b.toNat]
  | .rdsum => []
  | .build f t s c => [f.toNat, t.toNat, s.toNat, c.toNat]

/-- A command is well formed when all its operands are bytes. BUILD has no further condition (41_frame_builder.md
rule R63). -/
def Instr.wellFormed (i : Instr) : Bool := i.operands.all operandInRange

end Sys2Proof
end

