-- ==== Sys2Proof/Machine/Assembler.lean ====
section
/-! DEFINITION. The textual form of commands (30_encoding.md rules R41, R42): one command per line, mnemonic in capitals,
operands separated by commas, each a byte in hexadecimal or decimal; a semicolon starts a comment. White space, the case
of hexadecimal digits and the choice among several errors are the model's (DESIGN CHOICE, log entry 9). The assembler
stands outside the block: nothing of it is in a step. -/

namespace Sys2Proof.Machine

/-- A source line: a command or a pseudo-instruction, its operands still plain numbers (30_encoding.md rules R41, R42). -/
inductive AsmLine where
  | clr
  | add (b : Nat)
  | rdsum
  | build (f t s c : Nat)
  | compute (bytes : List Nat)
  | wake
  | probe (a : Nat)
  | absConn
  | absRdtc
  | absAct
  deriving DecidableEq, Repr

/-- Why a line is not assembled. -/
inductive AsmError where
  /-- an operand outside 0 to 255 (30_encoding.md rule R41) -/
  | operandOutOfRange
  /-- an operand that is neither `0x` with hexadecimal digits nor decimal digits -/
  | badNumber
  /-- the wrong number of operands for the mnemonic -/
  | wrongOperandCount
  /-- a mnemonic that rules R41 and R42 do not list -/
  | unknownMnemonic
  deriving DecidableEq, Repr

/-- The operands of a line, in order. -/
def AsmLine.operands : AsmLine → List Nat
  | .add b => [b]
  | .build f t s c => [f, t, s, c]
  | .compute bytes => bytes
  | .probe a => [a]
  | .clr | .rdsum | .wake | .absConn | .absRdtc | .absAct => []

/-- A plain number as an operand byte. -/
def operandByte (n : Nat) : Byte := BitVec.ofNat 8 n

/-- The commands a line stands for, its operands taken as bytes (30_encoding.md rule R42). -/
def AsmLine.commands : AsmLine → List Instr
  | .clr => [.clr]
  | .add b => [.add (operandByte b)]
  | .rdsum => [.rdsum]
  | .build f t s c => [.build (operandByte f) (operandByte t) (operandByte s) (operandByte c)]
  | .compute bytes => computeCommands (bytes.map operandByte)
  | .wake => [wakeCommand]
  | .probe a => [probeCommand (operandByte a)]
  | .absConn => [absConnCommand]
  | .absRdtc => [absRdtcCommand]
  | .absAct => [absActCommand]

/-- Assembling a line: "An operand outside 0 to 255 is an assembly error" (30_encoding.md rule R41). -/
def assembleLine (l : AsmLine) : Except AsmError (List Instr) :=
  if l.operands.all operandInRange then .ok l.commands else .error .operandOutOfRange

/-- White space inside a line (DESIGN CHOICE, log entry 9): blank, tab and carriage return. -/
def isBlank (c : Char) : Bool := c == ' ' || c == '\t' || c == '\r'

/-- A text without the white space at its two ends. -/
def trimBlanks (cs : List Char) : List Char := ((cs.dropWhile isBlank).reverse.dropWhile isBlank).reverse

/-- A line without its comment: "a semicolon starts a comment" (30_encoding.md rule R41). -/
def stripComment (cs : List Char) : List Char := cs.takeWhile (· != ';')

/-- A text cut at every occurrence of a separator. -/
def cutAt (sep : Char) : List Char → List (List Char)
  | [] => [[]]
  | c :: cs =>
    if c == sep then [] :: cutAt sep cs
    else
      match cutAt sep cs with
      | [] => [[c]]
      | w :: ws => (c :: w) :: ws

/-- The value of a digit character in a base up to 16. -/
def digitValue (base : Nat) (c : Char) : Option Nat :=
  let n := c.toNat
  let v :=
    if 48 ≤ n ∧ n ≤ 57 then n - 48
    else if 65 ≤ n ∧ n ≤ 70 then n - 55
    else if 97 ≤ n ∧ n ≤ 102 then n - 87
    else base
  if v < base then some v else none

/-- A digit string read on from the value `acc`. -/
def readDigits (base : Nat) : Nat → List Char → Option Nat
  | acc, [] => some acc
  | acc, c :: cs =>
    match digitValue base c with
    | some v => readDigits base (base * acc + v) cs
    | none => none

/-- A number in hexadecimal (`0x1C`) or decimal (30_encoding.md rule R41). -/
def readNumber : List Char → Option Nat
  | [] => none
  | ['0', 'x'] => none
  | '0' :: 'x' :: c :: cs => readDigits 16 0 (c :: cs)
  | c :: cs => readDigits 10 0 (c :: cs)

/-- The operands of a line: numbers separated by commas, or no text at all. -/
def readOperands (cs : List Char) : Option (List Nat) :=
  if cs.isEmpty then some [] else (cutAt ',' cs).mapM fun w => readNumber (trimBlanks w)

/-- The line that a mnemonic and its operands make (30_encoding.md rules R41, R42). -/
def lineOf (mnemonic : List Char) (ops : List Nat) : Except AsmError AsmLine :=
  if mnemonic = ['C', 'L', 'R'] then
    match ops with | [] => .ok .clr | _ => .error .wrongOperandCount
  else if mnemonic = ['A', 'D', 'D'] then
    match ops with | [b] => .ok (.add b) | _ => .error .wrongOperandCount
  else if mnemonic = ['R', 'D', 'S', 'U', 'M'] then
    match ops with | [] => .ok .rdsum | _ => .error .wrongOperandCount
  else if mnemonic = ['B', 'U', 'I', 'L', 'D'] then
    match ops with | [f, t, s, c] => .ok (.build f t s c) | _ => .error .wrongOperandCount
  else if mnemonic = ['C', 'O', 'M', 'P', 'U', 'T', 'E'] then
    .ok (.compute ops)
  else if mnemonic = ['W', 'A', 'K', 'E'] then
    match ops with | [] => .ok .wake | _ => .error .wrongOperandCount
  else if mnemonic = ['P', 'R', 'O', 'B', 'E'] then
    match ops with | [a] => .ok (.probe a) | _ => .error .wrongOperandCount
  else if mnemonic = ['A', 'B', 'S', 'C', 'O', 'N', 'N'] then
    match ops with | [] => .ok .absConn | _ => .error .wrongOperandCount
  else if mnemonic = ['A', 'B', 'S', 'R', 'D', 'T', 'C'] then
    match ops with | [] => .ok .absRdtc | _ => .error .wrongOperandCount
  else if mnemonic = ['A', 'B', 'S', 'A', 'C', 'T'] then
    match ops with | [] => .ok .absAct | _ => .error .wrongOperandCount
  else .error .unknownMnemonic

/-- Reading a line that has neither a comment nor white space at its ends: `none` for an empty one. -/
def readTrimmed (cs : List Char) : Except AsmError (Option AsmLine) :=
  match cs with
  | [] => .ok none
  | c :: rest =>
    match readOperands (trimBlanks ((c :: rest).dropWhile fun c => !isBlank c)) with
    | none => .error .badNumber
    | some ops => (lineOf ((c :: rest).takeWhile fun c => !isBlank c) ops).map some

/-- Reading one line of text: `none` for a line that holds no command. -/
def readLine (text : List Char) : Except AsmError (Option AsmLine) := readTrimmed (trimBlanks (stripComment text))

/-- The commands that one line of text assembles to. -/
def assembleText (text : List Char) : Except AsmError (List Instr) :=
  match readLine text with
  | .ok none => .ok []
  | .ok (some l) => assembleLine l
  | .error e => .error e

/-- The commands that a text of several lines assembles to: those of each line in turn, or the first error. -/
def assembleLines : List (List Char) → Except AsmError (List Instr)
  | [] => .ok []
  | text :: rest =>
    match assembleText text with
    | .error e => .error e
    | .ok is =>
      match assembleLines rest with
      | .error e => .error e
      | .ok js => .ok (is ++ js)

/-- A whole text, one command per line (30_encoding.md rule R41). -/
def assembleProgram (text : List Char) : Except AsmError (List Instr) := assembleLines (cutAt '\n' text)

/-- A hexadecimal digit, in capitals. -/
def hexDigit (n : Nat) : Char := if n < 10 then Char.ofNat (48 + n) else Char.ofNat (55 + n)

/-- A byte as an operand, `0x` and two digits (30_encoding.md rule R41). -/
def showByte (b : Byte) : List Char := ['0', 'x', hexDigit (b.toNat / 16), hexDigit (b.toNat % 16)]

/-- A command in its textual form (30_encoding.md rule R41). -/
def showCommand : Instr → List Char
  | .clr => ['C', 'L', 'R']
  | .add b => ['A', 'D', 'D', ' '] ++ showByte b
  | .rdsum => ['R', 'D', 'S', 'U', 'M']
  | .build f t s c =>
    ['B', 'U', 'I', 'L', 'D', ' '] ++ showByte f ++ [',', ' '] ++ showByte t ++ [',', ' '] ++ showByte s ++
      [',', ' '] ++ showByte c

/-- A command word as nine hexadecimal digits (30_encoding.md rule R41). -/
def showWord (cw : CmdWord) : List Char :=
  [8, 7, 6, 5, 4, 3, 2, 1, 0].map fun k => hexDigit (cw.toNat / 16 ^ k % 16)

end Sys2Proof.Machine
end

