-- ==== Sys2Proof/Safety.lean ====
section
/-! DEFINITION. What the claims speak of: what one step does to the running sum, the bytes summed so far, the responses
of a run, and the host's two duties (70_reset_and_hazards.md rules R92, R93). The machine runs whether or not the host
keeps them. -/

namespace Sys2Proof.Machine

/-- What a step does to the running sum (10_state.md rule R11). -/
inductive AccEffect where
  /-- RDSUM, BUILD, an idle step: the sum stays -/
  | keep
  /-- CLR or a reset: the sum starts again from the empty sequence -/
  | restart
  /-- ADD b -/
  | append (b : Byte)
  deriving DecidableEq, Repr

/-- The effect of a sample of the inputs on the running sum, by the access table of 10_state.md rule R11. -/
def accEffect (p : PortIn) : AccEffect :=
  match eventOf p with
  | .reset => .restart
  | .idle => .keep
  | .command cw =>
    match decode cw with
    | .clr => .restart
    | .add b => .append b
    | .rdsum => .keep
    | .build _ _ _ _ => .keep

/-- The bytes summed so far, after one more sample (40_checksum.md rule R56, the invariant behind it). -/
def summedAfter (summed : List Byte) (p : PortIn) : List Byte :=
  match accEffect p with
  | .keep => summed
  | .restart => []
  | .append b => summed ++ [b]

/-- The bytes summed so far, after a sequence of samples. -/
def summedAfterAll (summed : List Byte) (ps : List PortIn) : List Byte := ps.foldl summedAfter summed

/-- The bytes that the ADDs among some samples add, in order. -/
def addedBytes (ps : List PortIn) : List Byte :=
  ps.filterMap fun p =>
    match accEffect p with
    | .append b => some b
    | .keep => none
    | .restart => none

/-- No CLR and no reset among the samples: a sequence may stand between a compute sequence's CLR and its RDSUM, its ADDs
being the sequence's own (40_checksum.md rule R56; 70_reset_and_hazards.md rule R93). -/
def noRestart (ps : List PortIn) : Bool := ps.all fun p => accEffect p != .restart

/-- The sample's step presents ACC: an RDSUM that is not discarded (10_state.md rule R11). -/
def readsSum (p : PortIn) : Bool :=
  match eventOf p with
  | .command cw => decode cw == .rdsum
  | .reset => false
  | .idle => false

/-- The boot duty of 70_reset_and_hazards.md rule R92: a reset or a CLR before the first ADD or RDSUM. -/
def bootDutyMet : List PortIn → Bool
  | [] => true
  | p :: ps =>
    match accEffect p with
    | .restart => true
    | .append _ => false
    | .keep => !readsSum p && bootDutyMet ps

/-- `k` steps, stopping where one stops: the run of `k` steps of the host's interface (`core_run_eq_runSteps`). -/
def runSteps : Nat → State → Host.Outcome State Fault Refusal
  | 0, s => .next s
  | k + 1, s =>
    match step s with
    | .next t => runSteps k t
    | .fault r => .fault r
    | .refused r => .refused r

/-- The responses of `k` steps, in order: what a host can observe of a run (70_reset_and_hazards.md rule R97). -/
def responses : Nat → State → List (Option Rsp)
  | 0, _ => []
  | k + 1, s =>
    match step s with
    | .next t => t.rsp :: responses k t
    | .fault _ => []
    | .refused _ => []

end Sys2Proof.Machine
end

