-- ==== Sys2Proof/Certificates/Slice0/Obligations.lean ====
section
/-! DEFINITION. The statements about CKFB, from the numbered rules of the spec. The fields `inputs` and `rsp` are the
model's carriers of the ports (log entries 1 and 2); `runSteps k` is `k` steps. -/

open Sys2Proof Sys2Proof.Machine

/-! ## Decoding and encoding -/

/-- A step at which a valid command word is presented outside a reset is exactly `exec` of the decoded command, on the
state whose inputs have moved on by one sample (00_scope.md R6, 10_state.md R17). -/
def Obligations.StepRunsPresentedCommand : Prop :=
  ∀ (s : State) (p : PortIn) (rest : List PortIn),
    s.inputs = p :: rest → p.rst = false → p.cmdValid = true →
      step s = exec (decode p.cw) { s with inputs := rest }

/-- 30_encoding.md R36, with the opcode column of R35: the opcode alone selects the command, and each operand is the byte
at its fixed position. -/
def Obligations.DecodeTakesOperandsFromFixedBits : Prop :=
  ∀ cw : CmdWord,
    (cw.extractLsb' 32 2 = 0b00 → decode cw = .clr) ∧
    (cw.extractLsb' 32 2 = 0b01 → decode cw = .add (cw.extractLsb' 0 8)) ∧
    (cw.extractLsb' 32 2 = 0b10 → decode cw = .rdsum) ∧
    (cw.extractLsb' 32 2 = 0b11 →
      decode cw = .build (cw.extractLsb' 24 8) (cw.extractLsb' 16 8) (cw.extractLsb' 8 8) (cw.extractLsb' 0 8))

/-- 30_encoding.md R35 (its match and mask values) and R38: under the one mask, every word has the match value of the
command it decodes to, and no other command's. -/
def Obligations.EveryWordMatchesItsRow : Prop :=
  ∀ (cw : CmdWord) (i : Instr), cw &&& 0x300000000 = i.matchWord ↔ i.matchWord = (decode cw).matchWord

/-- 30_encoding.md R37: the reserved bits change nothing, the encoder writes them as zero, and BUILD has none. -/
def Obligations.ReservedOperandBitsAreIgnored : Prop :=
  (∀ cw cw' : CmdWord, cw.extractLsb' 32 2 = cw'.extractLsb' 32 2 →
    (cw.extractLsb' 32 2 = 0b00 ∨ cw.extractLsb' 32 2 = 0b10 ∨
      (cw.extractLsb' 32 2 = 0b01 ∧ cw.extractLsb' 0 8 = cw'.extractLsb' 0 8)) →
    ∀ (s : State) (rest : List PortIn),
      step { s with inputs := PortIn.ofWord cw :: rest } = step { s with inputs := PortIn.ofWord cw' :: rest }) ∧
  (encode .clr).extractLsb' 0 32 = 0 ∧ (encode .rdsum).extractLsb' 0 32 = 0 ∧
  (∀ b : Byte, (encode (.add b)).extractLsb' 8 24 = 0) ∧
  (∀ cw cw' : CmdWord, cw.extractLsb' 32 2 = 0b11 → decode cw = decode cw' → cw = cw')

/-- Decode and encode agree on every command, with every operand at every value: every command is well formed, and
decoding its canonical word gives it back. -/
def Obligations.DecodeOfEncodeIsIdentity : Prop :=
  ∀ i : Instr, i.wellFormed = true ∧ decode (encode i) = i

/-- The other direction: encoding what a word decodes to gives the word back with its reserved bits, and only those, set
to zero (30_encoding.md R37, R41). -/
def Obligations.EncodeOfDecodeClearsReservedBits : Prop :=
  ∀ cw : CmdWord,
    (encode (decode cw)).toNat =
      (if cw.toNat / 2 ^ 32 = 3 then cw.toNat
       else if cw.toNat / 2 ^ 32 = 1 then 2 ^ 32 + cw.toNat % 256
       else cw.toNat / 2 ^ 32 * 2 ^ 32)

/-- The canonical words as the numbers that 30_encoding.md R41 gives. -/
def Obligations.CanonicalWordsAsNumbers : Prop :=
  (encode .clr).toNat = 0x000000000 ∧
  (∀ b : Byte, (encode (.add b)).toNat = 0x100000000 + b.toNat) ∧
  (encode .rdsum).toNat = 0x200000000 ∧
  (∀ f t s c : Byte, (encode (.build f t s c)).toNat =
    0x300000000 + f.toNat * 2 ^ 24 + t.toNat * 2 ^ 16 + s.toNat * 2 ^ 8 + c.toNat)

/-- A raw number decodes exactly when it fits the 34 bits of `cw` (30_encoding.md R34, R38; that a wider number is
rejected is the model's, log entry 5). -/
def Obligations.RawNumberDecodesWithinPortWidth : Prop :=
  ∀ n : Nat,
    (n < 2 ^ 34 → decodeNumber n = .ok (decode (BitVec.ofNat 34 n)) ∧
      ∀ nbits, 34 ≤ nbits → decodeTableWord nbits n = some (decode (BitVec.ofNat 34 n))) ∧
    (2 ^ 34 ≤ n → decodeNumber n = .error .widerThanCommandWord)

/-- What the host's fetch interface means here: the word placed is the one that the decoder reads and the next step runs,
on the state as it was (the interface is the model's, log entry 5). -/
def Obligations.PlacedWordRunsNext : Prop :=
  ∀ (s : State) (nbits w : Nat) (i : Instr),
    decodeTableWord nbits w = some i → step (s.withFetchWord nbits w) = exec i s

/-- The words of the decoding table in 95_test_vectors.md section 2.5. -/
def Obligations.DecodingTableOfTheSpec : Prop :=
  decode 0x000000000 = .clr ∧ decode 0x0FFFFFFFF = .clr ∧
  decode 0x100000000 = .add 0x00 ∧ decode 0x1DEADBEEF = .add 0xEF ∧
  decode 0x200000000 = .rdsum ∧ decode 0x2FFFFFFFF = .rdsum ∧
  decode 0x300000000 = .build 0x00 0x00 0x00 0x00 ∧ decode 0x3FFFFFFFF = .build 0xFF 0xFF 0xFF 0xFF ∧
  decode 0x3801CF121 = .build 0x80 0x1C 0xF1 0x21

/-! ## The four commands -/

/-- 40_checksum.md R53: the encoding (opcode 00, the operand field ignored, canonical word 0), the effect from every
state, what it leaves alone, and that no other command gives ACC a value independent of what it held. -/
def Obligations.ClrSetsAccToZero : Prop :=
  (∀ cw : CmdWord, cw.extractLsb' 32 2 = 0b00 → decode cw = .clr) ∧ encode .clr = 0x000000000 ∧
  (∀ s : State, exec .clr s = .next { s with acc := 0, rsp := none }) ∧
  (∀ (i : Instr) (s s' t t' : State), i ≠ .clr → s.acc ≠ s'.acc →
    exec i s = .next t → exec i s' = .next t' → t.acc ≠ t'.acc)

/-- 40_checksum.md R54: the encoding, and the effect from every state: the exact sum modulo 256, no response, nothing
else changed. -/
def Obligations.AddAddsModulo256 : Prop :=
  (∀ cw : CmdWord, cw.extractLsb' 32 2 = 0b01 → decode cw = .add (cw.extractLsb' 0 8)) ∧
  (∀ b : Byte, (encode (.add b)).toNat = 0x100000000 + b.toNat) ∧
  (∀ (b : Byte) (s : State), ∃ t, exec (.add b) s = .next t ∧
    t.acc.toNat = (s.acc.toNat + b.toNat) % 256 ∧ t.rsp = none ∧ t.inputs = s.inputs)

/-- 40_checksum.md R55: the encoding, and the effect from every state: ACC in the low byte of the response, zeros above,
ACC kept, a second RDSUM answering the same. -/
def Obligations.RdsumPresentsAcc : Prop :=
  (∀ cw : CmdWord, cw.extractLsb' 32 2 = 0b10 → decode cw = .rdsum) ∧ encode .rdsum = 0x200000000 ∧
  (∀ s : State, ∃ t r, exec .rdsum s = .next t ∧ t.rsp = some r ∧
    r.extractLsb' 0 8 = s.acc ∧ r.extractLsb' 8 32 = 0 ∧ t.acc = s.acc ∧ t.inputs = s.inputs ∧
    exec .rdsum t = .next t)

/-- 41_frame_builder.md R61: the encoding, and the effect from every state and all four operands: the four bytes in their
places, their exact sum modulo 256 in the low byte, ACC and everything else unchanged. -/
def Obligations.BuildPresentsFrame : Prop :=
  (∀ cw : CmdWord, cw.extractLsb' 32 2 = 0b11 →
    decode cw = .build (cw.extractLsb' 24 8) (cw.extractLsb' 16 8) (cw.extractLsb' 8 8) (cw.extractLsb' 0 8)) ∧
  (∀ f t s c : Byte, (encode (.build f t s c)).toNat =
    0x300000000 + f.toNat * 2 ^ 24 + t.toNat * 2 ^ 16 + s.toNat * 2 ^ 8 + c.toNat) ∧
  (∀ (f t sr c : Byte) (s : State), ∃ u r, exec (.build f t sr c) s = .next u ∧ u.rsp = some r ∧
    r.extractLsb' 32 8 = f ∧ r.extractLsb' 24 8 = t ∧ r.extractLsb' 16 8 = sr ∧ r.extractLsb' 8 8 = c ∧
    (r.extractLsb' 0 8).toNat = (f.toNat + t.toNat + sr.toNat + c.toNat) % 256 ∧
    u.acc = s.acc ∧ u.inputs = s.inputs)

/-- 41_frame_builder.md R62: a BUILD's response does not depend on ACC, ACC is kept, a BUILD before any command leaves
that command's outcome as it was, and a command before a BUILD leaves the BUILD's response as it was. -/
def Obligations.BuildAndAccAreIndependent : Prop :=
  ∀ (f t sr c : Byte) (i : Instr) (s s' : State), ∃ u u' v w,
    exec (.build f t sr c) s = .next u ∧ exec (.build f t sr c) s' = .next u' ∧
    u.rsp = u'.rsp ∧ u.acc = s.acc ∧ u'.acc = s'.acc ∧
    exec i u = exec i s ∧ exec i s = .next v ∧ exec (.build f t sr c) v = .next w ∧ w.rsp = u.rsp ∧ w.acc = v.acc

/-- 20_memory.md R23: BUILD's operand field is `f ∥ t ∥ s ∥ c`, and the upper 32 bits of the response equal it. -/
def Obligations.BuildResponseRepeatsOperandField : Prop :=
  ∀ (cw : CmdWord) (s : State), cw.extractLsb' 32 2 = 0b11 → ∃ u r,
    decode cw = .build (cw.extractLsb' 24 8) (cw.extractLsb' 16 8) (cw.extractLsb' 8 8) (cw.extractLsb' 0 8) ∧
    exec (decode cw) s = .next u ∧ u.rsp = some r ∧ r.extractLsb' 8 32 = cw.extractLsb' 0 32

/-- The frame of the four commands: none touches what the host is still to present; RDSUM and BUILD keep ACC; CLR and ADD
present nothing and RDSUM and BUILD something (10_state.md R11, 30_encoding.md R40). -/
def Obligations.CommandsLeaveTheRestUnchanged : Prop :=
  ∀ (i : Instr) (s t : State), exec i s = .next t →
    t.inputs = s.inputs ∧ (t.acc ≠ s.acc → i = .clr ∨ ∃ b, i = .add b ∧ b ≠ 0) ∧
    (t.rsp.isSome = true ↔ i = .rdsum ∨ ∃ f u r c, i = .build f u r c)

/-- CLR, RDSUM and BUILD are idempotent; ADD of any byte but zero is not (20_memory.md R25). -/
def Obligations.WhichCommandsAreIdempotent : Prop :=
  ∀ (i : Instr) (s : State), ∃ t, exec i s = .next t ∧ (exec i t = .next t ↔ ∀ b, i = .add b → b = 0)

/-- 60_exceptions.md R80: no command, with any operand and in any state, fails, is refused or stalls, and no step does. -/
def Obligations.NoCommandFails : Prop :=
  (∀ (i : Instr) (s : State), ∃ t, exec i s = .next t) ∧ (∀ s : State, ∃ t, step s = .next t)

/-! ## Steps: reset, idle, the whole machine in one step -/

/-- 60_exceptions.md R82: with `rst = 1` the step is a reset whatever stands on `cmd_valid` and `cw`. -/
def Obligations.ResetWinsOverCommand : Prop :=
  ∀ (s : State) (p : PortIn) (rest : List PortIn), s.inputs = p :: rest → p.rst = true →
    step s = .next { acc := 0, rsp := none, inputs := rest }

/-- 70_reset_and_hazards.md R90: one reset step or several in a row, from any state, leave ACC 0 and no response, and a
compute sequence they fall into is restarted: its RDSUM answers the sum of only the bytes added after them. -/
def Obligations.ResetRestartsTheSum : Prop :=
  ∀ (s : State) (rs rest : List PortIn) (bytes : List Byte),
    rs ≠ [] → (∀ p ∈ rs, p.rst = true) →
    (s.inputs = rs ++ rest → runSteps rs.length s = .next { acc := 0, rsp := none, inputs := rest }) ∧
    (s.inputs = rs ++ presentCommands (bytes.map Instr.add ++ [.rdsum]) ++ rest →
      runSteps (rs.length + (bytes.length + 1)) s =
        .next { acc := sum8 bytes, rsp := some (zext40 (sum8 bytes)), inputs := rest })

/-- A step with `rst = 0` and `cmd_valid = 0` changes no state and presents nothing, whatever stands on `cw`
(10_state.md R17); that a host whose samples are exhausted presents nothing is the model's (log entry 2). -/
def Obligations.IdleStepChangesNothing : Prop :=
  (∀ (s : State) (p : PortIn) (rest : List PortIn), s.inputs = p :: rest → p.rst = false → p.cmdValid = false →
    step s = .next { s with rsp := none, inputs := rest }) ∧
  (∀ s : State, s.inputs = [] → step s = .next { s with rsp := none })

/-- The whole machine in one step, from the bits on the ports (00_scope.md section 7; 10_state.md R11; 30_encoding.md
R35, R40): the next ACC and the response for each case of `rst`, `cmd_valid` and the opcode. -/
def Obligations.WholeStepFromPortBits : Prop :=
  ∀ (s : State) (p : PortIn) (rest : List PortIn), s.inputs = p :: rest →
    ∃ t, step s = .next t ∧ t.inputs = rest ∧
      t.acc =
        (if p.rst then 0
         else if !p.cmdValid then s.acc
         else if p.cw.extractLsb' 32 2 = 0b00 then 0
         else if p.cw.extractLsb' 32 2 = 0b01 then s.acc + p.cw.extractLsb' 0 8
         else s.acc) ∧
      t.rsp =
        (if p.rst then none
         else if !p.cmdValid then none
         else if p.cw.extractLsb' 32 2 = 0b10 then some (s.acc.setWidth 40)
         else if p.cw.extractLsb' 32 2 = 0b11 then
           some (p.cw.extractLsb' 0 32 ++
             (p.cw.extractLsb' 24 8 + p.cw.extractLsb' 16 8 + p.cw.extractLsb' 8 8 + p.cw.extractLsb' 0 8))
         else none)

/-- The state after reset: ACC is 0 and nothing is presented (10_state.md R18); an RDSUM straight after it answers
`sum8([]) = 0`. That the host has presented nothing yet is the model's (log entry 2). -/
def Obligations.ResetStateIsEmptySum : Prop :=
  State.reset.acc = 0 ∧ State.reset.rsp = none ∧ State.reset.inputs = [] ∧ State.reset.acc = sum8 [] ∧
  exec .rdsum State.reset = .next { State.reset with rsp := some 0 }

/-- 70_reset_and_hazards.md R91: at power on, for every byte that ACC may hold, ADD leaves the sum with it (still any
byte), RDSUM answers it, CLR and reset define ACC, and BUILD does not depend on it. The free value ACC_POWERON is one of
those bytes. -/
def Obligations.PowerOnCommands : Prop :=
  (∀ inputs, ∃ p, State.poweredOn inputs = State.atPowerOn p inputs) ∧
  (∀ (p b : Byte) (inputs : List PortIn), ∃ t, exec (.add b) (State.atPowerOn p inputs) = .next t ∧
    t.acc.toNat = (p.toNat + b.toNat) % 256) ∧
  (∀ (b v : Byte) (inputs : List PortIn), ∃ p t, exec (.add b) (State.atPowerOn p inputs) = .next t ∧ t.acc = v) ∧
  (∀ (p : Byte) (inputs : List PortIn), ∃ t r, exec .rdsum (State.atPowerOn p inputs) = .next t ∧ t.acc = p ∧
    t.rsp = some r ∧ r.extractLsb' 8 32 = 0 ∧ r.extractLsb' 0 8 = p) ∧
  (∀ (p q : Byte) (inputs : List PortIn),
    exec .clr (State.atPowerOn p inputs) = exec .clr (State.atPowerOn q inputs)) ∧
  (∀ (p q : Byte) (c : PortIn) (rest : List PortIn), c.rst = true →
    step (State.atPowerOn p (c :: rest)) = step (State.atPowerOn q (c :: rest))) ∧
  (∀ (p : Byte) (f g sr c : Byte) (inputs : List PortIn), ∃ t, exec (.build f g sr c) (State.atPowerOn p inputs) = .next t ∧
    t.acc = p ∧ t.rsp = some (pack40 (frame f g sr c)))

/-! ## Invariants and runs -/

/-- The invariant behind 40_checksum.md R56, kept by every step: if ACC is the checksum of the bytes summed so far, it is
so after the step, the bytes summed being restarted by CLR and reset, continued by ADD and kept by everything else. -/
def Obligations.StepKeepsAccAsChecksum : Prop :=
  ∀ (s t : State) (summed : List Byte), s.acc = sum8 summed → step s = .next t →
    t.acc = sum8 (summedAfter summed s.presented)

/-- The state after reset satisfies that invariant, with no byte summed (10_state.md R18). -/
def Obligations.ResetAccIsChecksumOfNothing : Prop :=
  State.reset.acc = sum8 []

/-- 70_reset_and_hazards.md R97: a run of any length from any state completes, one sample of the inputs a step; and the
state it ends in goes on from there. -/
def Obligations.EveryRunCompletes : Prop :=
  ∀ (k : Nat) (s : State), ∃ t, runSteps k s = .next t ∧ t.inputs = s.inputs.drop k ∧
    (responses k s).length = k ∧ ∀ j, runSteps (k + j) s = runSteps j t

/-- 40_checksum.md R56: COMPUTE expands to CLR, the ADDs and RDSUM, `n + 2` commands, and from any state they leave the
checksum of the bytes in ACC and in the response. -/
def Obligations.ComputeSequenceAnswersChecksum : Prop :=
  ∀ (s : State) (bytes : List Byte) (rest : List PortIn),
    (computeCommands bytes).length = bytes.length + 2 ∧
    (s.inputs = presentCommands (computeCommands bytes) ++ rest →
      runSteps (bytes.length + 2) s =
        .next { acc := sum8 bytes, rsp := some (zext40 (sum8 bytes)), inputs := rest })

/-- The compute sequence with anything that restarts nothing between its CLR and its RDSUM (40_checksum.md R56;
70_reset_and_hazards.md R94): BUILDs, RDSUMs and idle steps, in any number and anywhere, do not change its result. The
bytes of every ADD between them count, whoever presents it. -/
def Obligations.ComputeSequenceToleratesOtherSteps : Prop :=
  ∀ (s : State) (mid rest : List PortIn), noRestart mid = true →
    s.inputs = PortIn.ofWord (encode .clr) :: mid ++ PortIn.ofWord (encode .rdsum) :: rest →
      runSteps (mid.length + 2) s =
        .next { acc := sum8 (addedBytes mid), rsp := some (zext40 (sum8 (addedBytes mid))), inputs := rest }

/-- The one hazard (70_reset_and_hazards.md R93): a second compute sequence inside a first one answers its own checksum,
and the first one then answers the checksum of the second's bytes and its own later ones, which is the right one exactly
when the bytes it had added sum to the same. -/
def Obligations.InterleavedSequencesCorruptTheFirst : Prop :=
  ∀ (s : State) (xs ys zs : List Byte) (rest : List PortIn),
    s.inputs = presentCommands (.clr :: xs.map Instr.add ++ computeCommands ys ++ zs.map Instr.add ++ [.rdsum]) ++ rest →
      (∃ u, runSteps (xs.length + 1 + (ys.length + 2)) s = .next u ∧ u.rsp = some (zext40 (sum8 ys))) ∧
      (∃ t, runSteps (xs.length + 1 + (ys.length + 2) + (zs.length + 1)) s = .next t ∧
        t.rsp = some (zext40 (sum8 (ys ++ zs))) ∧ t.inputs = rest) ∧
      (sum8 (ys ++ zs) = sum8 (xs ++ zs) ↔ sum8 ys = sum8 xs)

/-- 10_state.md R16: there is no hidden state: two states with equal ACC to which the same is presented answer the same
in every step, whatever either answered before. -/
def Obligations.EqualAccIsIndistinguishable : Prop :=
  ∀ (k : Nat) (s s' : State), s.acc = s'.acc → s.inputs = s'.inputs →
    responses k s = responses k s' ∧ (0 < k → runSteps k s = runSteps k s')

/-- ACC is readable only through RDSUM (10_state.md R11): where no RDSUM is executed, no run's responses depend on what
ACC held. -/
def Obligations.AccIsReadOnlyThroughRdsum : Prop :=
  ∀ (k : Nat) (s : State) (a : Byte), (∀ p ∈ s.inputs, readsSum p = false) →
    responses k s = responses k { s with acc := a }

/-- A host that keeps the boot duty of 70_reset_and_hazards.md R92 gets defined results: its responses are the same for
every power-on value of ACC, the free value ACC_POWERON among them. -/
def Obligations.BootDutyDefinesAllResponses : Prop :=
  ∀ (k : Nat) (p : Byte) (inputs : List PortIn), bootDutyMet inputs = true →
    responses k (State.poweredOn inputs) = responses k (State.atPowerOn p inputs)

/-- Every response of every run is a zero-extended byte or a frame whose last byte is the sum of its first four modulo 256
(30_encoding.md R31, R40). -/
def Obligations.EveryResponseIsByteOrFrame : Prop :=
  ∀ (k : Nat) (s : State) (r : Rsp), some r ∈ responses k s →
    r.extractLsb' 8 32 = 0 ∨
    (r.extractLsb' 0 8).toNat =
      ((r.extractLsb' 32 8).toNat + (r.extractLsb' 24 8).toNat + (r.extractLsb' 16 8).toNat +
        (r.extractLsb' 8 8).toNat) % 256

/-! ## The checksum function and the frame function -/

/-- 40_checksum.md R50 and R51: the exact integer sum modulo 256, 0 for the empty sequence; and the recursive form that
the accumulator uses. -/
def Obligations.ChecksumIsSumModulo256 : Prop :=
  sum8 [] = 0 ∧
  (∀ bytes : List Byte, (sum8 bytes).toNat = (bytes.map BitVec.toNat).sum % 256) ∧
  (∀ (bytes : List Byte) (b : Byte), (sum8 (bytes ++ [b])).toNat = ((sum8 bytes).toNat + b.toNat) % 256)

/-- 40_checksum.md R57, laws 1 to 3: the order of the bytes does not matter, concatenation adds, zero bytes do not
matter wherever they stand. -/
def Obligations.ChecksumIgnoresOrderAndZeros : Prop :=
  (∀ B C : List Byte, B.Perm C → sum8 B = sum8 C) ∧
  (∀ B C : List Byte, (sum8 (B ++ C)).toNat = ((sum8 B).toNat + (sum8 C).toNat) % 256) ∧
  (∀ B C : List Byte, sum8 (B ++ 0 :: C) = sum8 (B ++ C))

/-- 40_checksum.md R57, law 4, and R58: a run of 256 equal bytes, and any multiple of it, anywhere, adds nothing. -/
def Obligations.ChecksumWrapsAt256EqualBytes : Prop :=
  (∀ (b : Byte) (m : Nat) (B C : List Byte), sum8 (B ++ List.replicate (256 * m) b ++ C) = sum8 (B ++ C)) ∧
  sum8 [0xFF, 0x01] = 0

/-- 40_checksum.md R57, law 6: replacing one byte changes the checksum by the difference, and always changes it. -/
def Obligations.ChecksumDetectsOneChangedByte : Prop :=
  ∀ (B C : List Byte) (x y : Byte),
    sum8 (B ++ y :: C) = sum8 (B ++ x :: C) + (y - x) ∧ (sum8 (B ++ y :: C) = sum8 (B ++ x :: C) ↔ x = y)

/-- 40_checksum.md R57, law 7: the five bytes of a frame sum to twice its checksum modulo 256. -/
def Obligations.FrameTotalIsTwiceChecksum : Prop :=
  ∀ f t s c : Byte, (sum8 (frame f t s c).bytes).toNat = 2 * (frame f t s c).cks.toNat % 256

/-- 41_frame_builder.md R64: the length, the bytes in order, the checksum, and the link to the compute sequence, which
answers over the four header bytes the byte that BUILD puts in `rsp[7:0]`. -/
def Obligations.FramePropertiesOfEveryFrame : Prop :=
  ∀ f t s c : Byte,
    (frame f t s c).bytes.length = 5 ∧
    (frame f t s c).bytes =
      [f, t, s, c, BitVec.ofNat 8 ((f.toNat + t.toNat + s.toNat + c.toNat) % 256)] ∧
    sum8 (frame f t s c).bytes.dropLast = (frame f t s c).cks ∧
    (∀ (st : State) (rest : List PortIn), st.inputs = presentCommands (computeCommands [f, t, s, c]) ++ rest →
      ∃ u v r, runSteps 6 st = .next u ∧ exec (.build f t s c) st = .next v ∧ v.rsp = some r ∧
        u.rsp = some ((r.extractLsb' 0 8).setWidth 40))

/-- 20_memory.md R22: each frame byte at its place in the response word, which read as a number shows the frame in
transmission order; and its example. -/
def Obligations.PackingPutsFirstByteOnTop : Prop :=
  (∀ F : RequestFrame,
    (pack40 F).extractLsb' 32 8 = F.fmt ∧ (pack40 F).extractLsb' 24 8 = F.tgt ∧ (pack40 F).extractLsb' 16 8 = F.src ∧
    (pack40 F).extractLsb' 8 8 = F.cmd ∧ (pack40 F).extractLsb' 0 8 = F.cks ∧
    (pack40 F).toNat = F.bytes.foldl (fun n b => n * 256 + b.toNat) 0) ∧
  pack40 { fmt := 0x81, tgt := 0x13, src := 0xF1, cmd := 0x81, cks := 0x06 } = 0x8113F18106

/-! ## The catalogue and the assembler -/

/-- 41_frame_builder.md R65, R67, R68, R69: the expansion, command word and response of the four fixed frames, from every
state. -/
def Obligations.CatalogueFrames : Prop :=
  assembleLine .wake = .ok [.build 0x81 0x13 0xF1 0x81] ∧ encode wakeCommand = 0x38113F181 ∧
  assembleLine .absConn = .ok [.build 0x81 0x1C 0xF1 0x81] ∧ encode absConnCommand = 0x3811CF181 ∧
  assembleLine .absRdtc = .ok [.build 0x80 0x1C 0xF1 0x21] ∧ encode absRdtcCommand = 0x3801CF121 ∧
  assembleLine .absAct = .ok [.build 0x80 0x1C 0xF1 0x30] ∧ encode absActCommand = 0x3801CF130 ∧
  ∀ s : State,
    exec wakeCommand s = .next { s with rsp := some 0x8113F18106 } ∧
    exec absConnCommand s = .next { s with rsp := some 0x811CF1810F } ∧
    exec absRdtcCommand s = .next { s with rsp := some 0x801CF121AE } ∧
    exec absActCommand s = .next { s with rsp := some 0x801CF130BD }

/-- 41_frame_builder.md R66: the probe of any byte, its command word and response as numbers, the checksum on the
scanner's range, and the two probes that are other catalogue frames. -/
def Obligations.ProbeFrames : Prop :=
  (∀ A : Byte,
    assembleLine (.probe A.toNat) = .ok [.build 0x81 A 0xF1 0x81] ∧
    (encode (probeCommand A)).toNat = 0x38100F181 + A.toNat * 2 ^ 16 ∧
    (∀ s : State, ∃ t r, exec (probeCommand A) s = .next t ∧ t.acc = s.acc ∧ t.inputs = s.inputs ∧ t.rsp = some r ∧
      r.toNat = 0x8100F18100 + A.toNat * 2 ^ 24 + (0xF3 + A.toNat) % 256 ∧
      (0x10 ≤ A.toNat → A.toNat ≤ 0x3F → (r.extractLsb' 0 8).toNat = A.toNat - 0x0D))) ∧
  probeCommand 0x13 = wakeCommand ∧ probeCommand 0x1C = absConnCommand

/-- A line is assembled exactly when all its operands are bytes (30_encoding.md R41). -/
def Obligations.AssemblerRefusesOperandsOutsideAByte : Prop :=
  ∀ l : AsmLine,
    ((∃ is, assembleLine l = .ok is) ↔ ∀ n ∈ l.operands, n ≤ 255) ∧
    ((∃ n ∈ l.operands, 255 < n) → assembleLine l = .error .operandOutOfRange)

/-- Every command's textual form, followed by any comment, assembles to that command (30_encoding.md R41; the white space
and the digits of `showCommand` are the model's choice, log entry 9). -/
def Obligations.TextOfCommandAssemblesToIt : Prop :=
  ∀ (i : Instr) (comment : List Char), assembleText (showCommand i ++ ';' :: comment) = .ok [i]
end

