-- ==== Sys2Proof/Laws/State.lean ====
section
/-! SUPPORT. One lemma per field of State per update, each true by definition, so that no later proof unfolds a record
update. -/

namespace Sys2Proof.Machine

@[simp] theorem State.readAcc_eq (s : State) : s.readAcc = s.acc := rfl

@[simp] theorem State.writeAcc_acc (v : Byte) (s : State) : (s.writeAcc v).acc = v := rfl
@[simp] theorem State.writeAcc_rsp (v : Byte) (s : State) : (s.writeAcc v).rsp = s.rsp := rfl
@[simp] theorem State.writeAcc_inputs (v : Byte) (s : State) : (s.writeAcc v).inputs = s.inputs := rfl

@[simp] theorem State.respond_acc (v : Rsp) (s : State) : (s.respond v).acc = s.acc := rfl
@[simp] theorem State.respond_rsp (v : Rsp) (s : State) : (s.respond v).rsp = some v := rfl
@[simp] theorem State.respond_inputs (v : Rsp) (s : State) : (s.respond v).inputs = s.inputs := rfl

@[simp] theorem State.noResponse_acc (s : State) : s.noResponse.acc = s.acc := rfl
@[simp] theorem State.noResponse_rsp (s : State) : s.noResponse.rsp = none := rfl
@[simp] theorem State.noResponse_inputs (s : State) : s.noResponse.inputs = s.inputs := rfl

@[simp] theorem State.consumeInput_acc (s : State) : s.consumeInput.acc = s.acc := rfl
@[simp] theorem State.consumeInput_rsp (s : State) : s.consumeInput.rsp = s.rsp := rfl
@[simp] theorem State.consumeInput_inputs (s : State) : s.consumeInput.inputs = s.inputs.tail := rfl

@[simp] theorem State.applyReset_acc (s : State) : s.applyReset.acc = 0 := rfl
@[simp] theorem State.applyReset_rsp (s : State) : s.applyReset.rsp = none := rfl
@[simp] theorem State.applyReset_inputs (s : State) : s.applyReset.inputs = s.inputs := rfl

@[simp] theorem State.applyIdle_acc (s : State) : s.applyIdle.acc = s.acc := rfl
@[simp] theorem State.applyIdle_rsp (s : State) : s.applyIdle.rsp = none := rfl
@[simp] theorem State.applyIdle_inputs (s : State) : s.applyIdle.inputs = s.inputs := rfl

@[simp] theorem State.atPowerOn_acc (v : Byte) (ps : List PortIn) : (State.atPowerOn v ps).acc = v := rfl
@[simp] theorem State.atPowerOn_rsp (v : Byte) (ps : List PortIn) : (State.atPowerOn v ps).rsp = none := rfl
@[simp] theorem State.atPowerOn_inputs (v : Byte) (ps : List PortIn) : (State.atPowerOn v ps).inputs = ps := rfl

@[simp] theorem State.presented_nil {s : State} (h : s.inputs = []) : s.presented = PortIn.ofIdle := by
  simp [State.presented, h, PortIn.ofIdle]

@[simp] theorem State.presented_cons {s : State} {p : PortIn} {rest : List PortIn} (h : s.inputs = p :: rest) :
    s.presented = p := by
  simp [State.presented, h]

/-- Two states are equal when their three fields are. -/
theorem State.eq_of_fields {s t : State} (ha : s.acc = t.acc) (hr : s.rsp = t.rsp) (hi : s.inputs = t.inputs) :
    s = t := by
  cases s
  cases t
  simp_all

end Sys2Proof.Machine
end

