-- ==== Sys2Proof/Laws/Ops.lean ====
section
/-! SUPPORT. One lemma per shared operation: what the adder and the checksum give as numbers, what a sample of the
inputs stands for, and what the fields of an assembled word are. -/

namespace Sys2Proof.Machine

/-- The adder as a number. -/
theorem add8_toNat (a b : Byte) : (add8 a b).toNat = (a.toNat + b.toNat) % 256 := by
  simp [add8, Config.sumMod]

/-- The checksum as a number. -/
theorem sum8_toNat (bytes : List Byte) : (sum8 bytes).toNat = (bytes.map BitVec.toNat).sum % 256 := by
  simp [sum8, Config.sumMod]

/-- The adder is the addition of 8-bit words. -/
theorem add8_eq_add (a b : Byte) : add8 a b = a + b :=
  BitVec.eq_of_toNat_eq (by rw [add8_toNat, BitVec.toNat_add])

/-- A response that carries a byte carries it in its low eight bits. -/
theorem zext40_toNat (v : Byte) : (zext40 v).toNat = v.toNat := by
  have := v.isLt
  simp only [zext40, BitVec.toNat_setWidth]
  omega

/-- Reset wins over whatever else is presented. -/
theorem eventOf_rst {p : PortIn} (h : p.rst = true) : eventOf p = .reset := by
  simp [eventOf, h]

/-- A valid command word outside a reset is a command. -/
theorem eventOf_cmd {p : PortIn} (hr : p.rst = false) (hv : p.cmdValid = true) : eventOf p = .command p.cw := by
  simp [eventOf, hr, hv]

/-- Without `rst` and `cmd_valid` the step is idle. -/
theorem eventOf_quiet {p : PortIn} (hr : p.rst = false) (hv : p.cmdValid = false) : eventOf p = .idle := by
  simp [eventOf, hr, hv]

@[simp] theorem eventOf_ofWord (cw : CmdWord) : eventOf (PortIn.ofWord cw) = .command cw := rfl
@[simp] theorem eventOf_ofReset : eventOf PortIn.ofReset = .reset := rfl
@[simp] theorem eventOf_ofIdle : eventOf PortIn.ofIdle = .idle := rfl

/-- The three kinds of event, each with the samples that give it. -/
theorem eventOf_cases (p : PortIn) :
    (p.rst = true ∧ eventOf p = .reset) ∨
    (p.rst = false ∧ p.cmdValid = true ∧ eventOf p = .command p.cw) ∨
    (p.rst = false ∧ p.cmdValid = false ∧ eventOf p = .idle) := by
  cases hr : p.rst with
  | true => exact .inl ⟨rfl, eventOf_rst hr⟩
  | false =>
    cases hv : p.cmdValid with
    | true => exact .inr (.inl ⟨rfl, rfl, eventOf_cmd hr hv⟩)
    | false => exact .inr (.inr ⟨rfl, rfl, eventOf_quiet hr hv⟩)

/-- The opcode field as a number. -/
theorem opField_toNat (cw : CmdWord) : (opField cw).toNat = cw.toNat / 2 ^ 32 % 4 := by
  simp [opField, BitVec.extractLsb'_toNat, Nat.shiftRight_eq_div_pow]

/-- The operand field as a number. -/
theorem argField_toNat (cw : CmdWord) : (argField cw).toNat = cw.toNat % 2 ^ 32 := by
  simp [argField, BitVec.extractLsb'_toNat]

/-- Byte `k` of an operand field as a number. -/
theorem argByte_toNat (k : Nat) (arg : Arg) : (argByte k arg).toNat = arg.toNat / 2 ^ (8 * k) % 256 := by
  simp [argByte, BitVec.extractLsb'_toNat, Nat.shiftRight_eq_div_pow]

/-- An assembled word as a number. -/
theorem wordOf_toNat (op : Opcode) (arg : Arg) : (wordOf op arg).toNat = op.toNat * 2 ^ 32 + arg.toNat := by
  have := op.isLt
  have := arg.isLt
  simp only [wordOf, BitVec.toNat_ofNat]
  omega

/-- BUILD's operand field as a number. -/
theorem headerArg_toNat (f t s c : Byte) :
    (headerArg f t s c).toNat = f.toNat * 2 ^ 24 + t.toNat * 2 ^ 16 + s.toNat * 2 ^ 8 + c.toNat := by
  have := f.isLt
  have := t.isLt
  have := s.isLt
  have := c.isLt
  simp only [headerArg, BitVec.toNat_ofNat]
  omega

/-- A packed frame as a number. -/
theorem pack40_toNat (F : RequestFrame) :
    (pack40 F).toNat =
      F.fmt.toNat * 2 ^ 32 + F.tgt.toNat * 2 ^ 24 + F.src.toNat * 2 ^ 16 + F.cmd.toNat * 2 ^ 8 + F.cks.toNat := by
  have := F.fmt.isLt
  have := F.tgt.isLt
  have := F.src.isLt
  have := F.cmd.isLt
  have := F.cks.isLt
  simp only [pack40, BitVec.toNat_ofNat]
  omega

/-- The opcode field of an assembled word. -/
@[simp] theorem opField_wordOf (op : Opcode) (arg : Arg) : opField (wordOf op arg) = op := by
  have := op.isLt
  have := arg.isLt
  apply BitVec.eq_of_toNat_eq
  rw [opField_toNat, wordOf_toNat]
  omega

/-- The operand field of an assembled word. -/
@[simp] theorem argField_wordOf (op : Opcode) (arg : Arg) : argField (wordOf op arg) = arg := by
  have := arg.isLt
  apply BitVec.eq_of_toNat_eq
  rw [argField_toNat, wordOf_toNat]
  omega

end Sys2Proof.Machine
end

