-- ==== Sys2Proof/Laws/PerInstr.lean ====
section
/-! SUPPORT. Statements made per command: the opcode bits that the encoder writes are those of the command's row of the
opcode map (30_encoding.md rule R35). -/

namespace Sys2Proof.Laws

open Sys2Proof.Machine

/-- The opcode field of the canonical word is the opcode field of the row's match value. -/
def OpcodeBits.Statement (i : Instr) : Prop := opField (encode i) = opField i.matchWord

theorem OpcodeBits.clr : OpcodeBits.Statement .clr := by
  simp only [OpcodeBits.Statement, encode, opField_wordOf, Instr.matchWord]
  decide

theorem OpcodeBits.add (b : Byte) : OpcodeBits.Statement (.add b) := by
  simp only [OpcodeBits.Statement, encode, opField_wordOf, Instr.matchWord]
  decide

theorem OpcodeBits.rdsum : OpcodeBits.Statement .rdsum := by
  simp only [OpcodeBits.Statement, encode, opField_wordOf, Instr.matchWord]
  decide

theorem OpcodeBits.build (f t s c : Byte) : OpcodeBits.Statement (.build f t s c) := by
  simp only [OpcodeBits.Statement, encode, opField_wordOf, Instr.matchWord]
  decide

end Sys2Proof.Laws
end

