-- ==== Sys2Proof/Laws/Run.lean ====
section
/-! SUPPORT. The model's runs are the runs of the host's interface. -/

namespace Sys2Proof.Machine

/-- `runSteps` is the interface's own run. -/
theorem core_run_eq_runSteps (k : Nat) (s : State) : Sys2Proof.core.run k s = runSteps k s := by
  induction k generalizing s with
  | zero => rfl
  | succ k ih =>
    cases h : step s with
    | next t =>
      have h' : Sys2Proof.core.step s = .next t := h
      simp only [Host.Core.run, h', runSteps, h]
      exact ih t
    | fault r => cases r
    | refused r =>
      have h' : Sys2Proof.core.step s = .refused r := h
      simp only [Host.Core.run, h', runSteps, h]
      rfl

end Sys2Proof.Machine
end

