-- ==== Sys2Proof/Laws/Step.lean ====
section
/-! SUPPORT. What one command and one step can do, said once: later proofs cite these and unfold neither `exec` nor
`step`. -/

namespace Sys2Proof.Machine

/-! Each meaning in terms of the shared operations. -/

@[simp] theorem exec_clr (s : State) : exec .clr s = .next (s.writeAcc 0).noResponse := rfl
@[simp] theorem exec_add (b : Byte) (s : State) : exec (.add b) s = .next (s.writeAcc (add8 s.acc b)).noResponse := rfl
@[simp] theorem exec_rdsum (s : State) : exec .rdsum s = .next (s.respond (zext40 s.acc)) := rfl
@[simp] theorem exec_build (f t r c : Byte) (s : State) :
    exec (.build f t r c) s = .next (s.respond (pack40 (frame f t r c))) := rfl

/-- What `exec` can answer: a next state, by the command's own rule. -/
theorem exec_cases {i : Instr} {s t : State} (h : exec i s = .next t) :
    (i = .clr ∧ t = (s.writeAcc 0).noResponse) ∨
    (∃ b, i = .add b ∧ t = (s.writeAcc (add8 s.acc b)).noResponse) ∨
    (i = .rdsum ∧ t = s.respond (zext40 s.acc)) ∨
    (∃ f g r c, i = .build f g r c ∧ t = s.respond (pack40 (frame f g r c))) := by
  cases i <;> cases h <;> simp

/-- What `step` can answer: the reset, the idle step, or what `exec` answers for the decoded command. -/
theorem step_cases {s t : State} (h : step s = .next t) :
    (eventOf s.presented = .reset ∧ t = s.consumeInput.applyReset) ∨
    (eventOf s.presented = .idle ∧ t = s.consumeInput.applyIdle) ∨
    (∃ cw, eventOf s.presented = .command cw ∧ exec (decode cw) s.consumeInput = .next t) := by
  unfold step at h
  split at h
  · exact .inl ⟨‹_›, by cases h; rfl⟩
  · exact .inr (.inr ⟨_, ‹_›, h⟩)
  · exact .inr (.inl ⟨‹_›, by cases h; rfl⟩)

end Sys2Proof.Machine
end

