-- ==== Sys2Proof/Tests/Slice0.lean ====
section
/-! SUPPORT. The model's own tests. Expected values are the spec's: the tables of 95_test_vectors.md and the examples of
rules R53 to R69, named beside each test. After them, a witness for the hypotheses of each statement that has any. -/

namespace Sys2Proof.Tests

open Sys2Proof Sys2Proof.Machine

/-- A small state: ACC, nothing presented before, and what the host presents next. -/
def holding (acc : Byte) (inputs : List PortIn) : State := { acc := acc, rsp := none, inputs := inputs }

/-! ## Decoding, the words written out bit by bit from 30_encoding.md R35 -/

theorem test_decode_clr_bits : decode 0b00_00000000_00000000_00000000_00000000 = .clr := by decide
theorem test_decode_clr_reserved_bits : decode 0b00_11111111_11111111_11111111_11111111 = .clr := by decide
theorem test_decode_add_bits : decode 0b01_00000000_00000000_00000000_11110001 = .add 0xF1 := by decide
theorem test_decode_add_reserved_bits : decode 0b01_11111111_11111111_11111111_00000001 = .add 0x01 := by decide
theorem test_decode_rdsum_bits : decode 0b10_00000000_00000000_00000000_00000000 = .rdsum := by decide
theorem test_decode_rdsum_reserved_bits : decode 0b10_10101011_11001101_11101111_00010010 = .rdsum := by decide
theorem test_decode_build_bits :
    decode 0b11_10000000_00011100_11110001_00100001 = .build 0x80 0x1C 0xF1 0x21 := by decide
theorem test_decode_build_places :
    decode 0b11_00010010_00110100_01010110_01111000 = .build 0x12 0x34 0x56 0x78 := by decide

/-- The table's rows through the host's two questions, on a word of each row with operands. -/
theorem test_table_words :
    decodeTableWord 40 0x000000000 = some .clr ∧ decodeTableWord 40 0x1000000FF = some (.add 0xFF) ∧
    decodeTableWord 40 0x200000000 = some .rdsum ∧
    decodeTableWord 40 0x38113F181 = some (.build 0x81 0x13 0xF1 0x81) := by decide
theorem test_table_word_too_wide : decodeTableWord 40 0x400000000 = none := by decide
theorem test_fetch_word_runs_build :
    step (State.reset.withFetchWord 40 0x38113F181) = .next { State.reset with rsp := some 0x8113F18106 } := rfl
theorem test_fetch_word_runs_add :
    step (State.reset.withFetchWord 40 0x1000000FF) = .next (holding 0xFF []) := rfl

/-- The canonical words of R41. -/
theorem test_encode_words :
    encode .clr = 0x000000000 ∧ encode (.add 0xF1) = 0x1000000F1 ∧ encode .rdsum = 0x200000000 ∧
    encode (.build 0x12 0x34 0x56 0x78) = 0x312345678 := by decide

/-! ## Well-formedness and the assembler -/

/-- The smoke test: an operand outside a byte is refused (R41). -/
theorem test_operand_256_is_ill_formed : operandInRange 256 = false := by decide
theorem test_operand_255_is_well_formed : operandInRange 255 = true := by decide
theorem test_build_well_formed : (Instr.build 0xFF 0x00 0xFF 0x00).wellFormed = true := by decide
theorem test_assembler_refuses_256 : assembleLine (.build 0 0 256 0) = .error .operandOutOfRange := rfl
theorem test_text_of_build :
    assembleText ['B', 'U', 'I', 'L', 'D', ' ', '0', 'x', '8', '1', ',', ' ', '1', '9', ',', '0', 'x', 'F', '1', ',', ' ',
      '1', '2', '9', ' ', ';', 'w'] = .ok [.build 0x81 0x13 0xF1 0x81] := rfl
theorem test_text_of_compute :
    assembleText ['C', 'O', 'M', 'P', 'U', 'T', 'E', ' ', '0', 'x', '0', '1', ',', '2'] =
      .ok [.clr, .add 0x01, .add 0x02, .rdsum] := rfl
theorem test_text_of_empty_compute : assembleText ['C', 'O', 'M', 'P', 'U', 'T', 'E'] = .ok [.clr, .rdsum] := rfl
theorem test_text_of_comment : assembleText [' ', ';', 'x'] = .ok [] := rfl
theorem test_text_unknown : assembleText ['S', 'U', 'B', ' ', '1'] = .error .unknownMnemonic := rfl
theorem test_text_operand_count : assembleText ['A', 'D', 'D'] = .error .wrongOperandCount := rfl
theorem test_text_two_lines :
    assembleProgram ['C', 'L', 'R', '\n', 'W', 'A', 'K', 'E'] = .ok [.clr, .build 0x81 0x13 0xF1 0x81] := rfl
/-- The wake frame's word as R41 writes a word (`0x38113F181`). -/
theorem test_show_word : showWord 0x38113F181 = ['3', '8', '1', '1', '3', 'F', '1', '8', '1'] := by decide

/-! ## The commands, one step each (95_test_vectors.md sections 2.2 to 3) -/

theorem test_clr : step (holding 0xAE [PortIn.ofWord 0x000000000]) = .next (holding 0x00 []) := rfl
theorem test_clr_ignores_operand : step (holding 0x37 [PortIn.ofWord 0x012345678]) = .next (holding 0x00 []) := rfl
theorem test_add : step (holding 0x94 [PortIn.ofWord 0x1000000F1]) = .next (holding 0x85 []) := rfl
theorem test_add_drops_carry : step (holding 0xFF [PortIn.ofWord 0x1000000FF]) = .next (holding 0xFE []) := rfl
theorem test_rdsum :
    step (holding 0xAE [PortIn.ofWord 0x2ABCDEF12]) = .next { holding 0xAE [] with rsp := some 0x00000000AE } := rfl
theorem test_rdsum_after_reset : exec .rdsum State.reset = .next { State.reset with rsp := some 0x0000000000 } := rfl
theorem test_build_places :
    step (holding 0x5A [PortIn.ofWord 0x312345678]) = .next { holding 0x5A [] with rsp := some 0x1234567814 } := rfl
theorem test_build_drops_two_carries :
    step (holding 0x5A [PortIn.ofWord 0x3FFFFFFFF]) = .next { holding 0x5A [] with rsp := some 0xFFFFFFFFFC } := rfl

/-! ## Reset and idle (95_test_vectors.md program P7) -/

theorem test_reset_discards_add :
    step (holding 0x01 [{ rst := true, cmdValid := true, cw := 0x1000000FF }]) = .next (holding 0x00 []) := rfl
theorem test_reset_discards_build :
    step (holding 0x00 [{ rst := true, cmdValid := true, cw := 0x38113F181 }]) = .next (holding 0x00 []) := rfl
theorem test_idle_ignores_word :
    step { holding 0x06 [{ rst := false, cmdValid := false, cw := 0x1000000FF }] with rsp := some 7 } =
      .next (holding 0x06 []) := rfl

/-! ## The checksum function and the catalogue (95_test_vectors.md sections 2.1 and 3) -/

theorem test_sum8_wraps : sum8 [0xFF, 0x01] = 0x00 ∧ sum8 [0xFF, 0xFF] = 0xFE := by decide
/-- V11: a whole frame sums to twice its checksum. -/
theorem test_sum8_whole_frame : sum8 [0x81, 0x13, 0xF1, 0x81, 0x06] = 0x0C := by decide
/-- V15: the nine ASCII digits 1 to 9. -/
theorem test_sum8_digits : sum8 [0x31, 0x32, 0x33, 0x34, 0x35, 0x36, 0x37, 0x38, 0x39] = 0xDD := by decide
/-- R5, R32: four header bytes, five frame bytes; R64 (d): the header's checksum is the frame's last byte. -/
theorem test_frame_lengths (f t s c : Byte) :
    (frame f t s c).header.length = Config.hdrLen ∧ (frame f t s c).bytes.length = Config.frameLen ∧
    sum8 (frame f t s c).header = (frame f t s c).cks := ⟨rfl, rfl, rfl⟩
theorem test_absact_frame : pack40 (frame 0x80 0x1C 0xF1 0x30) = 0x801CF130BD := by decide
theorem test_probe_0C_frame :
    exec (probeCommand 0x0C) State.reset = .next { State.reset with rsp := some 0x810CF181FF } := rfl
/-- 20_memory.md R26: 48 addresses, strictly ascending, exactly the range, the fixed targets among them. -/
theorem test_scan_addresses :
    scanAddresses.length = 48 ∧ scanAddresses.Pairwise (fun a b => a < b) ∧
    (∀ a : Byte, a ∈ scanAddresses ↔ isEcuAddress a = true) ∧ absController ∈ scanAddresses ∧
    wakeTarget ∈ scanAddresses := by decide

/-! ## Witnesses: the hypotheses of each statement hold together of something -/

theorem witness_StepRunsPresentedCommand :
    (holding 0x94 [PortIn.ofWord 0x1000000F1]).inputs = PortIn.ofWord 0x1000000F1 :: [] ∧
    (PortIn.ofWord 0x1000000F1).rst = false ∧ (PortIn.ofWord 0x1000000F1).cmdValid = true := by decide

theorem witness_DecodeTakesOperandsFromFixedBits :
    (0x0FFFFFFFF : CmdWord).extractLsb' 32 2 = 0b00 ∧ (0x1FFFFFFFF : CmdWord).extractLsb' 32 2 = 0b01 ∧
    (0x2FFFFFFFF : CmdWord).extractLsb' 32 2 = 0b10 ∧ (0x3FFFFFFFF : CmdWord).extractLsb' 32 2 = 0b11 := by decide

theorem witness_ReservedOperandBitsAreIgnored :
    ((0x000000000 : CmdWord).extractLsb' 32 2 = (0x0FFFFFFFF : CmdWord).extractLsb' 32 2 ∧
      (0x000000000 : CmdWord).extractLsb' 32 2 = 0b00) ∧
    ((0x200000000 : CmdWord).extractLsb' 32 2 = (0x2FFFFFFFF : CmdWord).extractLsb' 32 2 ∧
      (0x200000000 : CmdWord).extractLsb' 32 2 = 0b10) ∧
    ((0x1FFFFFF01 : CmdWord).extractLsb' 32 2 = (0x100000001 : CmdWord).extractLsb' 32 2 ∧
      (0x1FFFFFF01 : CmdWord).extractLsb' 32 2 = 0b01 ∧
      (0x1FFFFFF01 : CmdWord).extractLsb' 0 8 = (0x100000001 : CmdWord).extractLsb' 0 8) ∧
    ((0x3FFFFFFFF : CmdWord).extractLsb' 32 2 = 0b11 ∧ decode 0x3FFFFFFFF = decode 0x3FFFFFFFF) := by decide

theorem witness_RawNumberDecodesWithinPortWidth :
    2 ^ 34 - 1 < 2 ^ 34 ∧ 34 ≤ 34 ∧ 2 ^ 34 ≤ 2 ^ 34 := by decide

theorem witness_PlacedWordRunsNext : decodeTableWord 40 0x3FFFFFFFF = some (.build 0xFF 0xFF 0xFF 0xFF) := by decide

theorem witness_ClrSetsAccToZero :
    Instr.add 0x01 ≠ .clr ∧ (holding 0xFF []).acc ≠ (holding 0x00 []).acc ∧
    exec (.add 0x01) (holding 0xFF []) = .next (holding 0x00 []) ∧
    exec (.add 0x01) (holding 0x00 []) = .next (holding 0x01 []) := ⟨by decide, by decide, rfl, rfl⟩

theorem witness_opcode_clauses_of_the_commands :
    (0x000000000 : CmdWord).extractLsb' 32 2 = 0b00 ∧ (0x100000000 : CmdWord).extractLsb' 32 2 = 0b01 ∧
    (0x200000000 : CmdWord).extractLsb' 32 2 = 0b10 ∧ (0x300000000 : CmdWord).extractLsb' 32 2 = 0b11 := by decide

theorem witness_CommandsLeaveTheRestUnchanged :
    exec (.add 0x01) (holding 0xFF [PortIn.ofIdle]) = .next (holding 0x00 [PortIn.ofIdle]) ∧
    (holding 0x00 [PortIn.ofIdle]).acc ≠ (holding 0xFF [PortIn.ofIdle]).acc := ⟨rfl, by decide⟩

theorem witness_ResetWinsOverCommand :
    (holding 0x01 [{ rst := true, cmdValid := true, cw := 0x1000000FF }]).inputs =
      { rst := true, cmdValid := true, cw := 0x1000000FF } :: [] := by decide

theorem witness_ResetRestartsTheSum :
    [PortIn.ofReset] ≠ [] ∧ (∀ p ∈ [PortIn.ofReset], p.rst = true) ∧
    (holding 0x94 [PortIn.ofReset]).inputs = [PortIn.ofReset] ++ [] ∧
    (holding 0x94 [PortIn.ofReset, PortIn.ofWord 0x1000000F1, PortIn.ofWord 0x200000000]).inputs =
      [PortIn.ofReset] ++ presentCommands ([0xF1].map Instr.add ++ [.rdsum]) ++ [] := by decide

theorem witness_IdleStepChangesNothing :
    (holding 0x06 [PortIn.ofIdle]).inputs = PortIn.ofIdle :: [] ∧ PortIn.ofIdle.rst = false ∧
    PortIn.ofIdle.cmdValid = false ∧ (holding 0x06 []).inputs = [] := by decide

theorem witness_WholeStepFromPortBits :
    (holding 0x80 [PortIn.ofWord 0x3801CF121]).inputs = PortIn.ofWord 0x3801CF121 :: [] := by decide

theorem witness_PowerOnCommands : PortIn.ofReset.rst = true := by decide

theorem witness_StepKeepsAccAsChecksum :
    (holding 0x94 [PortIn.ofWord 0x1000000F1]).acc = sum8 [0x81, 0x13] ∧
    step (holding 0x94 [PortIn.ofWord 0x1000000F1]) = .next (holding 0x85 []) := ⟨by decide, rfl⟩

theorem witness_ComputeSequenceAnswersChecksum :
    (holding 0x5A [PortIn.ofWord 0x000000000, PortIn.ofWord 0x1000000FF, PortIn.ofWord 0x200000000]).inputs =
      presentCommands (computeCommands [0xFF]) ++ [] := by decide

theorem witness_ComputeSequenceToleratesOtherSteps :
    noRestart [PortIn.ofWord 0x100000080, PortIn.ofWord 0x3801CF121, PortIn.ofWord 0x200000000, PortIn.ofIdle] = true ∧
    (holding 0x5A [PortIn.ofWord 0x000000000, PortIn.ofWord 0x100000080, PortIn.ofWord 0x3801CF121,
      PortIn.ofWord 0x200000000, PortIn.ofIdle, PortIn.ofWord 0x200000000]).inputs =
      PortIn.ofWord (encode .clr) ::
        [PortIn.ofWord 0x100000080, PortIn.ofWord 0x3801CF121, PortIn.ofWord 0x200000000, PortIn.ofIdle] ++
        PortIn.ofWord (encode .rdsum) :: [] := by decide

/-- The lists of bytes of the spec's worked example (70_reset_and_hazards.md R93). -/
theorem witness_InterleavedSequencesCorruptTheFirst :
    (holding 0x00 (presentCommands [.clr, .add 0x81, .add 0x13, .clr, .add 0x01, .rdsum, .add 0xF1, .add 0x81,
      .rdsum])).inputs =
      presentCommands (.clr :: [0x81, 0x13].map Instr.add ++ computeCommands [0x01] ++ [0xF1, 0x81].map Instr.add ++
        [.rdsum]) ++ [] ∧ sum8 ([0x01] ++ [0xF1, 0x81]) = 0x73 ∧ sum8 ([0x81, 0x13] ++ [0xF1, 0x81]) = 0x06 := by decide

theorem witness_EqualAccIsIndistinguishable :
    (holding 0x06 []).acc = ({ holding 0x06 [] with rsp := some 0x8113F18106 } : State).acc ∧
    (holding 0x06 []).inputs = ({ holding 0x06 [] with rsp := some 0x8113F18106 } : State).inputs ∧ 0 < 1 := by decide

theorem witness_AccIsReadOnlyThroughRdsum :
    ∀ p ∈ (holding 0x5A [PortIn.ofWord 0x3801CF121, PortIn.ofWord 0x1000000FF, PortIn.ofIdle]).inputs,
      readsSum p = false := by decide

theorem witness_BootDutyDefinesAllResponses :
    bootDutyMet [PortIn.ofWord 0x38113F181, PortIn.ofWord 0x000000000, PortIn.ofWord 0x1000000FF,
      PortIn.ofWord 0x200000000] = true ∧
    bootDutyMet [PortIn.ofWord 0x200000000] = false := by decide

theorem witness_EveryResponseIsByteOrFrame :
    some 0x00000000AE ∈ responses 1 (holding 0xAE [PortIn.ofWord 0x200000000]) ∧
    some 0x8113F18106 ∈ responses 1 (holding 0xAE [PortIn.ofWord 0x38113F181]) := by decide

/-- V16: a permutation of the wake header. -/
theorem witness_ChecksumIgnoresOrderAndZeros :
    ([0x81, 0x13, 0xF1, 0x81] : List Byte).Perm [0x13, 0x81, 0x81, 0xF1] := by decide

theorem witness_FramePropertiesOfEveryFrame :
    (holding 0x00 (presentCommands [.clr, .add 0x81, .add 0x13, .add 0xF1, .add 0x81, .rdsum])).inputs =
      presentCommands (computeCommands [0x81, 0x13, 0xF1, 0x81]) ++ [] := by decide

theorem witness_ProbeFrames :
    (0x10 ≤ (0x10 : Byte).toNat ∧ (0x10 : Byte).toNat ≤ 0x3F) ∧
    (0x10 ≤ (0x3F : Byte).toNat ∧ (0x3F : Byte).toNat ≤ 0x3F) := by decide

theorem witness_AssemblerRefusesOperandsOutsideAByte :
    (∀ n ∈ (AsmLine.probe 255).operands, n ≤ 255) ∧ (∃ n ∈ (AsmLine.probe 256).operands, 255 < n) := by decide

end Sys2Proof.Tests
end

namespace Sys2Proof.Machine

/-- Taking the first sample off the host's list leaves the rest of it. -/
theorem State.consumeInput_of_cons {s : State} {p : PortIn} {rest : List PortIn} (h : s.inputs = p :: rest) :
    s.consumeInput = { s with inputs := rest } :=
  State.eq_of_fields rfl rfl (by rw [State.consumeInput_inputs, h, List.tail_cons])

/-- A step at which the host presents a command is `exec` of the decoded word (10_state.md R17): the equation of `step`
for this event, where `step_cases` inverts an answer already given. -/
theorem step_of_command {s : State} {cw : CmdWord} (h : eventOf s.presented = .command cw) :
    step s = exec (decode cw) s.consumeInput := by
  simp only [step, h]

/-- Settles O1: the first sample of the inputs is the one presented, and it stands for its command word. -/
theorem stepRunsPresentedCommand : Obligations.StepRunsPresentedCommand := by
  intro s p rest hinputs hrst hvalid
  have hevent : eventOf s.presented = .command p.cw := by
    rw [State.presented_cons hinputs, eventOf_cmd hrst hvalid]
  rw [step_of_command hevent, State.consumeInput_of_cons hinputs]

end Sys2Proof.Machine


namespace Sys2Proof.Machine

/-! ### Equations of `step` for the two events that are no command, and completion -/

/-- A step in which the host presents a reset (70_reset_and_hazards.md R90). -/
theorem step_of_reset {s : State} (h : eventOf s.presented = .reset) : step s = .next s.consumeInput.applyReset := by
  simp only [step, h]

/-- A step in which the host presents nothing (10_state.md R17). -/
theorem step_of_idle {s : State} (h : eventOf s.presented = .idle) : step s = .next s.consumeInput.applyIdle := by
  simp only [step, h]

/-- Every command answers a next state (60_exceptions.md R80). -/
theorem exec_completes (i : Instr) (s : State) : ∃ t, exec i s = .next t := by
  cases i <;> exact ⟨_, rfl⟩

/-- Every step answers a next state (60_exceptions.md R80). -/
theorem step_completes (s : State) : ∃ t, step s = .next t := by
  obtain ⟨-, hevent⟩ | ⟨-, -, hevent⟩ | ⟨-, -, hevent⟩ := eventOf_cases s.presented
  · exact ⟨_, step_of_reset hevent⟩
  · rw [step_of_command hevent]
    exact exec_completes _ _
  · exact ⟨_, step_of_idle hevent⟩

/-- No command touches what the host is still to present. -/
theorem exec_inputs {i : Instr} {s t : State} (h : exec i s = .next t) : t.inputs = s.inputs := by
  obtain ⟨-, rfl⟩ | ⟨b, -, rfl⟩ | ⟨-, rfl⟩ | ⟨f, g, r, c, -, rfl⟩ := exec_cases h <;> rfl

/-- Every step takes one sample off the host's list (00_scope.md R7). -/
theorem step_inputs {s t : State} (h : step s = .next t) : t.inputs = s.inputs.tail := by
  obtain ⟨-, rfl⟩ | ⟨-, rfl⟩ | ⟨cw, -, hexec⟩ := step_cases h
  · rfl
  · rfl
  · exact exec_inputs hexec

/-! ### The decoder from the bits of the word (30_encoding.md R35, R36) -/

/-- A two-bit opcode is one of the four rows of the opcode map. -/
theorem opcode_cases (op : Opcode) : op = 0b00 ∨ op = 0b01 ∨ op = 0b10 ∨ op = 0b11 := by
  decide +revert

/-- Byte `k` of the operand field stands at bit `8 * k` of the word. -/
theorem argByte_argField {k : Nat} (hk : k < 4) (cw : CmdWord) :
    argByte k (argField cw) = cw.extractLsb' (8 * k) 8 := by
  apply BitVec.eq_of_getLsbD_eq
  intro j hj
  have hbit : 8 * k + j < 32 := by omega
  simp [argByte, argField, hj, hbit]

theorem decode_of_opcode_clr {cw : CmdWord} (h : cw.extractLsb' 32 2 = 0b00) : decode cw = .clr := by
  simp [decode, opField, h]

theorem decode_of_opcode_add {cw : CmdWord} (h : cw.extractLsb' 32 2 = 0b01) :
    decode cw = .add (cw.extractLsb' 0 8) := by
  simp [decode, opField, h, addendOf, argByte_argField]

theorem decode_of_opcode_rdsum {cw : CmdWord} (h : cw.extractLsb' 32 2 = 0b10) : decode cw = .rdsum := by
  simp [decode, opField, h]

theorem decode_of_opcode_build {cw : CmdWord} (h : cw.extractLsb' 32 2 = 0b11) :
    decode cw =
      .build (cw.extractLsb' 24 8) (cw.extractLsb' 16 8) (cw.extractLsb' 8 8) (cw.extractLsb' 0 8) := by
  simp [decode, opField, h, formatOf, targetOf, sourceOf, commandOf, argByte_argField]

/-! ### The response of BUILD from the bits of the word -/

/-- The checksum of four bytes is their 8-bit sum. -/
theorem sum8_four (f t s c : Byte) : sum8 [f, t, s, c] = f + t + s + c := by
  apply BitVec.eq_of_toNat_eq
  rw [sum8_toNat]
  simp [Nat.add_assoc]

/-- The header bytes taken from a word pack into its operand field, with their sum below it (20_memory.md R22, R23). -/
theorem pack40_frame_of_word (cw : CmdWord) :
    pack40 (frame (cw.extractLsb' 24 8) (cw.extractLsb' 16 8) (cw.extractLsb' 8 8) (cw.extractLsb' 0 8)) =
      cw.extractLsb' 0 32 ++
        (cw.extractLsb' 24 8 + cw.extractLsb' 16 8 + cw.extractLsb' 8 8 + cw.extractLsb' 0 8) := by
  rw [← sum8_four]
  generalize hcks : sum8 _ = cks
  apply BitVec.eq_of_toNat_eq
  rw [pack40_toNat, BitVec.toNat_append, ← Nat.shiftLeft_add_eq_or_of_lt cks.isLt]
  simp only [frame, hcks, BitVec.extractLsb'_toNat, Nat.shiftRight_eq_div_pow, Nat.shiftLeft_eq]
  omega

/-- Settles O23: reset, idle, and the four rows of the opcode map. -/
theorem wholeStepFromPortBits : Obligations.WholeStepFromPortBits := by
  intro s p rest hinputs
  have hpresented : s.presented = p := State.presented_cons hinputs
  have hrest : s.inputs.tail = rest := by rw [hinputs, List.tail_cons]
  obtain ⟨hrst, hevent⟩ | ⟨hrst, hvalid, hevent⟩ | ⟨hrst, hvalid, hevent⟩ := eventOf_cases p <;>
    rw [← hpresented] at hevent
  case inl =>
    exact ⟨_, step_of_reset hevent, hrest, by simp [hrst], by simp [hrst]⟩
  case inr.inr =>
    exact ⟨_, step_of_idle hevent, hrest, by simp [hrst, hvalid], by simp [hrst, hvalid]⟩
  case inr.inl =>
    rw [step_of_command hevent, hpresented]
    obtain hop | hop | hop | hop := opcode_cases (p.cw.extractLsb' 32 2)
    · rw [decode_of_opcode_clr hop]
      exact ⟨_, exec_clr _, hrest, by simp [hrst, hvalid, hop], by simp [hrst, hvalid, hop]⟩
    · rw [decode_of_opcode_add hop]
      exact ⟨_, exec_add _ _, hrest, by simp [hrst, hvalid, hop, add8_eq_add], by simp [hrst, hvalid, hop]⟩
    · rw [decode_of_opcode_rdsum hop]
      exact ⟨_, exec_rdsum _, hrest, by simp [hrst, hvalid, hop], by simp [hrst, hvalid, hop, zext40]⟩
    · rw [decode_of_opcode_build hop, exec_build, pack40_frame_of_word]
      exact ⟨_, rfl, hrest, by simp [hrst, hvalid, hop], by simp [hrst, hvalid, hop]⟩

/-! ### No step reads the response of the step before (10_state.md R16) -/

/-- A command's whole answer is determined by ACC and the samples to come. -/
theorem exec_eq_of_acc_inputs {s s' : State} (hacc : s.acc = s'.acc) (hinputs : s.inputs = s'.inputs) (i : Instr) :
    exec i s = exec i s' := by
  cases i <;> exact congrArg Host.Outcome.next (State.eq_of_fields (by simp [hacc]) (by simp [hacc]) hinputs)

/-- A step's whole answer is determined by ACC and the samples to come. -/
theorem step_eq_of_acc_inputs {s s' : State} (hacc : s.acc = s'.acc) (hinputs : s.inputs = s'.inputs) :
    step s = step s' := by
  have hpresented : s.presented = s'.presented := by simp only [State.presented, hinputs]
  have htail : s.consumeInput.inputs = s'.consumeInput.inputs := by simp [hinputs]
  obtain ⟨-, hevent⟩ | ⟨-, -, hevent⟩ | ⟨-, -, hevent⟩ := eventOf_cases s.presented
  · rw [step_of_reset hevent, step_of_reset (hpresented ▸ hevent)]
    exact congrArg Host.Outcome.next (State.eq_of_fields rfl rfl htail)
  · rw [step_of_command hevent, step_of_command (hpresented ▸ hevent), hpresented]
    exact exec_eq_of_acc_inputs (s := s.consumeInput) (s' := s'.consumeInput) hacc htail _
  · rw [step_of_idle hevent, step_of_idle (hpresented ▸ hevent)]
    exact congrArg Host.Outcome.next (State.eq_of_fields hacc rfl htail)

/-- Settles O32: the first step already answers the same, and the rest of the run goes on from its answer. -/
theorem equalAccIsIndistinguishable : Obligations.EqualAccIsIndistinguishable := by
  intro k s s' hacc hinputs
  cases k with
  | zero => exact ⟨rfl, fun hpos => absurd hpos (Nat.lt_irrefl 0)⟩
  | succ k =>
    have hstep : step s = step s' := step_eq_of_acc_inputs hacc hinputs
    simp only [responses, runSteps, hstep, implies_true, and_self]

/-! ### Only RDSUM reads ACC into a response (10_state.md R11) -/

@[simp] theorem State.presented_writeAcc (a : Byte) (s : State) : (s.writeAcc a).presented = s.presented := rfl

/-- From another ACC, a command that is not RDSUM answers the same except for ACC. -/
theorem exec_writeAcc {i : Instr} {s t : State} (hi : i ≠ .rdsum) (h : exec i s = .next t) (a : Byte) :
    ∃ a', exec i (s.writeAcc a) = .next (t.writeAcc a') := by
  obtain ⟨rfl, rfl⟩ | ⟨b, rfl, rfl⟩ | ⟨rfl, -⟩ | ⟨f, g, r, c, rfl, rfl⟩ := exec_cases h
  · exact ⟨0, rfl⟩
  · exact ⟨add8 a b, rfl⟩
  · exact absurd rfl hi
  · exact ⟨a, rfl⟩

/-- From another ACC, a step that does not execute an RDSUM answers the same except for ACC. -/
theorem step_writeAcc {s t : State} (hread : readsSum s.presented = false) (h : step s = .next t) (a : Byte) :
    ∃ a', step (s.writeAcc a) = .next (t.writeAcc a') := by
  obtain ⟨hevent, rfl⟩ | ⟨hevent, rfl⟩ | ⟨cw, hevent, hexec⟩ := step_cases h
  · exact ⟨0, step_of_reset hevent⟩
  · exact ⟨a, step_of_idle hevent⟩
  · have hnotRdsum : decode cw ≠ .rdsum := by simpa [readsSum, hevent] using hread
    obtain ⟨a', hexec'⟩ := exec_writeAcc hnotRdsum hexec a
    exact ⟨a', (step_of_command (s := s.writeAcc a) hevent).trans hexec'⟩

/-- A sample that executes no RDSUM is presented when none of the list does; an exhausted list presents nothing. -/
theorem readsSum_presented {s : State} (h : ∀ p ∈ s.inputs, readsSum p = false) : readsSum s.presented = false := by
  cases hinputs : s.inputs with
  | nil =>
    rw [State.presented_nil hinputs]
    rfl
  | cons p rest =>
    rw [State.presented_cons hinputs]
    exact h p (by simp [hinputs])

/-- The responses of a run, from the state its first step answers. -/
theorem responses_succ {s t : State} (h : step s = .next t) (k : Nat) :
    responses (k + 1) s = t.rsp :: responses k t := by
  simp only [responses, h]

/-- Settles O33, by induction on the number of steps; the two runs may differ in ACC all along. -/
theorem accIsReadOnlyThroughRdsum : Obligations.AccIsReadOnlyThroughRdsum := by
  intro k
  induction k with
  | zero => intros; rfl
  | succ k ih =>
    intro s a hreads
    obtain ⟨t, hstep⟩ := step_completes s
    obtain ⟨a', hstep'⟩ := step_writeAcc (readsSum_presented hreads) hstep a
    have hreads' : ∀ p ∈ t.inputs, readsSum p = false := by
      rw [step_inputs hstep]
      exact fun p hp => hreads p (List.mem_of_mem_tail hp)
    calc responses (k + 1) s
        = t.rsp :: responses k t := responses_succ hstep k
      _ = (t.writeAcc a').rsp :: responses k (t.writeAcc a') := congrArg (t.rsp :: ·) (ih t a' hreads')
      _ = responses (k + 1) (s.writeAcc a) := (responses_succ hstep' k).symm

/-! ### The placed word, the frame of the commands, idle steps and the state after reset -/

/-- A number that decodes is a command word, and decodes as that word does (30_encoding.md R34, R38). -/
theorem decode_of_decodeTableWord {nbits w : Nat} {i : Instr} (h : decodeTableWord nbits w = some i) :
    decode (BitVec.ofNat 34 (w % 2 ^ nbits)) = i := by
  by_cases hfits : w % 2 ^ nbits < 2 ^ Config.cwWidth
  · simpa [decodeTableWord, decodeNumber, hfits] using h
  · simp [decodeTableWord, decodeNumber, hfits] at h

/-- Settles O9: the placed word is the sample presented, and taking it off again leaves the state as it was. -/
theorem placedWordRunsNext : Obligations.PlacedWordRunsNext := by
  intro s nbits w i h
  rw [← decode_of_decodeTableWord h]
  exact step_of_command (s := s.withFetchWord nbits w) rfl

/-- Adding the zero byte changes nothing. -/
@[simp] theorem add8_zero (a : Byte) : add8 a 0 = a := by
  simp [add8_eq_add]

/-- Settles O17, command by command. -/
theorem commandsLeaveTheRestUnchanged : Obligations.CommandsLeaveTheRestUnchanged := by
  intro i s t h
  refine ⟨exec_inputs h, ?_⟩
  obtain ⟨rfl, rfl⟩ | ⟨b, rfl, rfl⟩ | ⟨rfl, rfl⟩ | ⟨f, g, r, c, rfl, rfl⟩ := exec_cases h
  · simp
  · have hnonzero : add8 s.acc b ≠ s.acc → b ≠ 0 := by
      rintro hne rfl
      exact hne (add8_zero s.acc)
    simpa using hnonzero
  · simp
  · simp

/-- Settles O22: a sample without `rst` and `cmd_valid`, and an exhausted list, both give the idle event. -/
theorem idleStepChangesNothing : Obligations.IdleStepChangesNothing := by
  constructor
  · intro s p rest hinputs hrst hvalid
    have hevent : eventOf s.presented = .idle := by rw [State.presented_cons hinputs, eventOf_quiet hrst hvalid]
    rw [step_of_idle hevent, State.consumeInput_of_cons hinputs]
    rfl
  · intro s hinputs
    have hevent : eventOf s.presented = .idle := by rw [State.presented_nil hinputs, eventOf_ofIdle]
    have hidle : s.consumeInput.applyIdle = { s with rsp := none } :=
      State.eq_of_fields rfl rfl (by simp [hinputs])
    rw [step_of_idle hevent, hidle]

/-- The checksum of no bytes (40_checksum.md R51). -/
@[simp] theorem sum8_nil : sum8 [] = 0 := rfl

/-- Settles O27. -/
theorem resetAccIsChecksumOfNothing : Obligations.ResetAccIsChecksumOfNothing :=
  sum8_nil.symm

/-- Settles O24: the reset state's own fields, the invariant at reset, and RDSUM's rule on an ACC of 0. -/
theorem resetStateIsEmptySum : Obligations.ResetStateIsEmptySum :=
  ⟨rfl, rfl, rfl, resetAccIsChecksumOfNothing, exec_rdsum State.reset⟩

end Sys2Proof.Machine


namespace Sys2Proof.Machine

/-! ### The operand field in BUILD's response (20_memory.md R23) -/

/-- Settles O16: the response is the word's operand field with one more byte, the checksum, below it. -/
theorem buildResponseRepeatsOperandField : Obligations.BuildResponseRepeatsOperandField := by
  intro cw s hop
  have hdecode := decode_of_opcode_build hop
  refine ⟨_, _, hdecode, by rw [hdecode, exec_build], rfl, ?_⟩
  rw [pack40_frame_of_word]
  exact BitVec.extractLsb'_append_eq_left

/-! ### Running a command twice (20_memory.md R25) -/

/-- The adder keeps its first operand exactly when the second is zero. -/
theorem add8_eq_left_iff {a b : Byte} : add8 a b = a ↔ b = 0 := by
  rw [add8_eq_add, add_eq_left]

/-- An ADD answers the very state it starts from exactly when it adds zero and that state shows no response. -/
theorem exec_add_eq_self_iff {b : Byte} {s : State} : exec (.add b) s = .next s ↔ b = 0 ∧ s.rsp = none := by
  rw [exec_add, Host.Outcome.next.injEq]
  constructor
  · intro h
    exact ⟨add8_eq_left_iff.mp (congrArg State.acc h), (congrArg State.rsp h).symm⟩
  · rintro ⟨hzero, hrsp⟩
    exact State.eq_of_fields (add8_eq_left_iff.mpr hzero) hrsp.symm rfl

/-- Settles O18, command by command: only ADD's answer depends on the ACC that it also writes. -/
theorem whichCommandsAreIdempotent : Obligations.WhichCommandsAreIdempotent := by
  intro i s
  cases i with
  | clr => exact ⟨_, exec_clr s, by simp [State.writeAcc, State.noResponse]⟩
  | add b => exact ⟨_, exec_add b s, by simp [-exec_add, exec_add_eq_self_iff]⟩
  | rdsum => exact ⟨_, exec_rdsum s, by simp [State.respond]⟩
  | build f t r c => exact ⟨_, exec_build f t r c s, by simp [State.respond]⟩

/-! ### The places of a frame's bytes in the packed word (20_memory.md R22) -/

/-- A packed frame read as a number is its bytes in transmission order, to the base 256. -/
theorem pack40_toNat_eq_foldl (F : RequestFrame) :
    (pack40 F).toNat = F.bytes.foldl (fun n b => n * 256 + b.toNat) 0 := by
  simp only [pack40_toNat, RequestFrame.bytes, List.foldl_cons, List.foldl_nil]
  omega

/-- The byte at bit `start` of a word, from the word as a number. -/
theorem extractLsb'_eq_of_div_mod {w start : Nat} {x : BitVec w} {b : Byte}
    (h : x.toNat / 2 ^ start % 256 = b.toNat) : x.extractLsb' start 8 = b := by
  apply BitVec.eq_of_toNat_eq
  rw [BitVec.extractLsb'_toNat, Nat.shiftRight_eq_div_pow, h]

/-- Settles O42: each byte's place is the quotient of the packed number by the weight of that place. -/
theorem packingPutsFirstByteOnTop : Obligations.PackingPutsFirstByteOnTop := by
  refine ⟨fun F => ?_, by decide⟩
  have hword := pack40_toNat F
  have := F.fmt.isLt
  have := F.tgt.isLt
  have := F.src.isLt
  have := F.cmd.isLt
  have := F.cks.isLt
  refine ⟨?_, ?_, ?_, ?_, ?_, pack40_toNat_eq_foldl F⟩ <;>
    (apply extractLsb'_eq_of_div_mod; omega)

end Sys2Proof.Machine


namespace Sys2Proof.Machine

/-! ### Canonical words, and decoding them again (30_encoding.md R35, R36, R41) -/

@[simp] theorem addendArg_toNat (b : Byte) : (addendArg b).toNat = b.toNat := by
  have := b.isLt
  simp only [addendArg, BitVec.toNat_setWidth]
  omega

theorem encode_clr_toNat : (encode .clr).toNat = 0x000000000 := rfl

theorem encode_rdsum_toNat : (encode .rdsum).toNat = 0x200000000 := rfl

theorem encode_add_toNat (b : Byte) : (encode (.add b)).toNat = 0x100000000 + b.toNat := by
  simp [encode, wordOf_toNat]

theorem encode_build_toNat (f t s c : Byte) :
    (encode (.build f t s c)).toNat =
      0x300000000 + f.toNat * 2 ^ 24 + t.toNat * 2 ^ 16 + s.toNat * 2 ^ 8 + c.toNat := by
  simp [encode, wordOf_toNat, headerArg_toNat, Nat.add_assoc]

/-- Settles O7, row by row of R41's table. -/
theorem canonicalWordsAsNumbers : Obligations.CanonicalWordsAsNumbers :=
  ⟨encode_clr_toNat, encode_add_toNat, encode_rdsum_toNat, encode_build_toNat⟩

/-- ADD's operand comes back from its operand field. -/
@[simp] theorem addendOf_addendArg (b : Byte) : addendOf (addendArg b) = b := by
  apply BitVec.eq_of_toNat_eq
  simp [addendOf, argByte_toNat, Nat.mod_eq_of_lt b.isLt]

/-- BUILD's four operands come back from its operand field, each from its own place. -/
theorem operands_of_headerArg (f t s c : Byte) :
    formatOf (headerArg f t s c) = f ∧ targetOf (headerArg f t s c) = t ∧
    sourceOf (headerArg f t s c) = s ∧ commandOf (headerArg f t s c) = c := by
  have := f.isLt
  have := t.isLt
  have := s.isLt
  have := c.isLt
  refine ⟨?_, ?_, ?_, ?_⟩ <;>
  · apply BitVec.eq_of_toNat_eq
    simp only [formatOf, targetOf, sourceOf, commandOf, argByte_toNat, headerArg_toNat]
    omega

/-- The decoder undoes the encoder. -/
@[simp] theorem decode_encode (i : Instr) : decode (encode i) = i := by
  cases i with
  | clr => simp [decode, encode]
  | add b => simp [decode, encode]
  | rdsum => simp [decode, encode]
  | build f t s c =>
    obtain ⟨hf, ht, hs, hc⟩ := operands_of_headerArg f t s c
    simp [decode, encode, hf, ht, hs, hc]

/-- A byte is in the range of operands (30_encoding.md R41). -/
@[simp] theorem operandInRange_toNat (b : Byte) : operandInRange b.toNat = true :=
  decide_eq_true b.isLt

/-- Every command is well formed: its operands are bytes by their type. -/
theorem wellFormed_eq_true (i : Instr) : i.wellFormed = true := by
  cases i <;> simp [Instr.wellFormed, Instr.operands]

/-- Settles O5: well-formedness is carried by the type of operands, and each field of the canonical word comes back. -/
theorem decodeOfEncodeIsIdentity : Obligations.DecodeOfEncodeIsIdentity :=
  fun i => ⟨wellFormed_eq_true i, decode_encode i⟩

/-! ### What the decoder reads from a word (30_encoding.md R35 to R38) -/

/-- Settles O2, row by row of the opcode map. -/
theorem decodeTakesOperandsFromFixedBits : Obligations.DecodeTakesOperandsFromFixedBits := fun _ =>
  ⟨decode_of_opcode_clr, decode_of_opcode_add, decode_of_opcode_rdsum, decode_of_opcode_build⟩

/-- The mask of the opcode map keeps the opcode and clears the operand field. -/
theorem and_opcodeMask (cw : CmdWord) : cw &&& opcodeMask = cw.extractLsb' 32 2 ++ 0#32 := by
  have hfields : cw = cw.extractLsb' 32 2 ++ cw.extractLsb' 0 32 :=
    (BitVec.extractLsb'_append_extractLsb' (w := 2) (len := 32)).symm
  have hmask : opcodeMask = BitVec.allOnes 2 ++ 0#32 := by decide
  calc cw &&& opcodeMask
      = (cw.extractLsb' 32 2 ++ cw.extractLsb' 0 32) &&& (BitVec.allOnes 2 ++ 0#32) := by rw [← hfields, hmask]
    _ = cw.extractLsb' 32 2 ++ 0#32 := by rw [BitVec.and_append, BitVec.and_allOnes, BitVec.and_zero]

/-- The match value of the command that a word decodes to is the word's opcode above a zero operand field. -/
theorem matchWord_decode (cw : CmdWord) : (decode cw).matchWord = cw.extractLsb' 32 2 ++ 0#32 := by
  obtain hop | hop | hop | hop := opcode_cases (cw.extractLsb' 32 2)
  · rw [decode_of_opcode_clr hop, hop]; rfl
  · rw [decode_of_opcode_add hop, hop]; rfl
  · rw [decode_of_opcode_rdsum hop, hop]; rfl
  · rw [decode_of_opcode_build hop, hop]; rfl

/-- Settles O3: the masked word is the match value of the command decoded. -/
theorem everyWordMatchesItsRow : Obligations.EveryWordMatchesItsRow := by
  intro cw i
  have hmasked : cw &&& 0x300000000 = (decode cw).matchWord := (and_opcodeMask cw).trans (matchWord_decode cw).symm
  rw [hmasked, eq_comm]

/-- Words that decode alike have the same opcode. -/
theorem opcode_eq_of_decode_eq {cw cw' : CmdWord} (h : decode cw = decode cw') :
    cw.extractLsb' 32 2 = cw'.extractLsb' 32 2 := by
  have happend : cw.extractLsb' 32 2 ++ 0#32 = cw'.extractLsb' 32 2 ++ 0#32 := by
    rw [← matchWord_decode, ← matchWord_decode, h]
  simpa only [BitVec.extractLsb'_append_eq_left] using congrArg (·.extractLsb' 32 2) happend

/-! ### Reserved operand bits (30_encoding.md R37) -/

/-- The opcode of a word as a number. -/
theorem toNat_div_eq_opcode (cw : CmdWord) : cw.toNat / 2 ^ 32 = (cw.extractLsb' 32 2).toNat := by
  have := cw.isLt
  rw [BitVec.extractLsb'_toNat, Nat.shiftRight_eq_div_pow]
  omega

/-- A BUILD word has no reserved bits: the four operands are its whole operand field. -/
theorem encode_decode_of_opcode_build {cw : CmdWord} (hop : cw.extractLsb' 32 2 = 0b11) : encode (decode cw) = cw := by
  have hquot : cw.toNat / 2 ^ 32 = 3 := by rw [toNat_div_eq_opcode, hop]; rfl
  apply BitVec.eq_of_toNat_eq
  rw [decode_of_opcode_build hop, encode_build_toNat]
  simp only [BitVec.extractLsb'_toNat, Nat.shiftRight_eq_div_pow]
  omega

/-- Settles O6, row by row of the opcode map. -/
theorem encodeOfDecodeClearsReservedBits : Obligations.EncodeOfDecodeClearsReservedBits := by
  intro cw
  rw [toNat_div_eq_opcode]
  obtain hop | hop | hop | hop := opcode_cases (cw.extractLsb' 32 2)
  · rw [decode_of_opcode_clr hop, hop]; rfl
  · rw [decode_of_opcode_add hop, hop, encode_add_toNat]
    simp [BitVec.extractLsb'_toNat]
  · rw [decode_of_opcode_rdsum hop, hop]; rfl
  · rw [encode_decode_of_opcode_build hop, hop]; rfl

/-- A step that is given a command word depends on no more of it than what it decodes to. -/
theorem step_ofWord_eq_of_decode_eq {cw cw' : CmdWord} (h : decode cw = decode cw') (s : State) (rest : List PortIn) :
    step { s with inputs := PortIn.ofWord cw :: rest } = step { s with inputs := PortIn.ofWord cw' :: rest } := by
  rw [stepRunsPresentedCommand _ (PortIn.ofWord cw) rest rfl rfl rfl,
    stepRunsPresentedCommand _ (PortIn.ofWord cw') rest rfl rfl rfl]
  exact congrArg (exec · _) h

/-- The word of an ADD has zeros between its opcode and its byte. -/
theorem encode_add_reserved (b : Byte) : (encode (.add b)).extractLsb' 8 24 = 0 := by
  have := b.isLt
  apply BitVec.eq_of_toNat_eq
  rw [BitVec.extractLsb'_toNat, encode_add_toNat, Nat.shiftRight_eq_div_pow]
  simp only [BitVec.ofNat_eq_ofNat, BitVec.toNat_ofNat]
  omega

/-- Settles O4: a step sees only the decoded command, and the words of CLR, RDSUM and ADD decode without their reserved
bits; a BUILD word is the canonical word of what it decodes to. -/
theorem reservedOperandBitsAreIgnored : Obligations.ReservedOperandBitsAreIgnored := by
  refine ⟨fun cw cw' hop hkind => step_ofWord_eq_of_decode_eq ?_, rfl, rfl, encode_add_reserved,
    fun cw cw' hbuild hdecode => ?_⟩
  · obtain hclr | hrdsum | ⟨hadd, hbyte⟩ := hkind
    · rw [decode_of_opcode_clr hclr, decode_of_opcode_clr (hop ▸ hclr)]
    · rw [decode_of_opcode_rdsum hrdsum, decode_of_opcode_rdsum (hop ▸ hrdsum)]
    · rw [decode_of_opcode_add hadd, decode_of_opcode_add (hop ▸ hadd), hbyte]
  · have hbuild' : cw'.extractLsb' 32 2 = 0b11 := opcode_eq_of_decode_eq hdecode ▸ hbuild
    rw [← encode_decode_of_opcode_build hbuild, hdecode, encode_decode_of_opcode_build hbuild']

/-! ### Raw numbers and the spec's decoding table (30_encoding.md R34, R38) -/

/-- A number that fits the port decodes as the command word it is. -/
theorem decodeNumber_of_lt {n : Nat} (h : n < 2 ^ 34) : decodeNumber n = .ok (decode (BitVec.ofNat 34 n)) :=
  if_pos h

/-- Settles O8: a table word of at least 34 bits keeps every number that fits the port. -/
theorem rawNumberDecodesWithinPortWidth : Obligations.RawNumberDecodesWithinPortWidth := by
  intro n
  refine ⟨fun hfits => ⟨decodeNumber_of_lt hfits, fun nbits hbits => ?_⟩, fun hwide => if_neg (Nat.not_lt.mpr hwide)⟩
  have hkept : n % 2 ^ nbits = n := Nat.mod_eq_of_lt (hfits.trans_le (Nat.pow_le_pow_right two_pos hbits))
  rw [decodeTableWord, hkept, decodeNumber_of_lt hfits]

/-- Settles O10, by running the decoder on the nine words. -/
theorem decodingTableOfTheSpec : Obligations.DecodingTableOfTheSpec := by
  unfold Obligations.DecodingTableOfTheSpec
  decide

end Sys2Proof.Machine

namespace Sys2Proof.Machine

/-! ### Every response is a zero-extended byte or a frame (30_encoding.md R31, R40) -/

/-- A response's shape: a zero-extended byte, or five bytes of which the last is the checksum of the first four. -/
def IsByteOrFrame (r : Rsp) : Prop :=
  r.extractLsb' 8 32 = 0 ∨
  (r.extractLsb' 0 8).toNat =
    ((r.extractLsb' 32 8).toNat + (r.extractLsb' 24 8).toNat + (r.extractLsb' 16 8).toNat +
      (r.extractLsb' 8 8).toNat) % 256

/-- RDSUM's response has zeros above its byte. -/
theorem isByteOrFrame_zext40 (v : Byte) : IsByteOrFrame (zext40 v) := by
  have := v.isLt
  refine .inl (BitVec.eq_of_toNat_eq ?_)
  rw [BitVec.extractLsb'_toNat, zext40_toNat, Nat.shiftRight_eq_div_pow, Nat.div_eq_of_lt this]
  rfl

/-- BUILD's response carries the checksum of its first four bytes in the last. -/
theorem isByteOrFrame_pack40_frame (f t s c : Byte) : IsByteOrFrame (pack40 (frame f t s c)) := by
  obtain ⟨hfmt, htgt, hsrc, hcmd, hcks, -⟩ := packingPutsFirstByteOnTop.1 (frame f t s c)
  refine .inr ?_
  rw [hfmt, htgt, hsrc, hcmd, hcks]
  simp [frame, sum8_toNat, Nat.add_assoc]

/-- Only RDSUM and BUILD show a response (30_encoding.md R40), and each has the stated shape. -/
theorem isByteOrFrame_of_step {s t : State} {r : Rsp} (h : step s = .next t) (hr : t.rsp = some r) :
    IsByteOrFrame r := by
  obtain ⟨-, rfl⟩ | ⟨-, rfl⟩ | ⟨cw, -, hexec⟩ := step_cases h
  · cases hr
  · cases hr
  · obtain ⟨-, rfl⟩ | ⟨b, -, rfl⟩ | ⟨-, rfl⟩ | ⟨f, g, u, c, -, rfl⟩ := exec_cases hexec <;> cases hr
    · exact isByteOrFrame_zext40 _
    · exact isByteOrFrame_pack40_frame f g u c

/-- Settles O35, by induction on the number of steps. -/
theorem everyResponseIsByteOrFrame : Obligations.EveryResponseIsByteOrFrame := by
  intro k
  induction k with
  | zero => exact fun _ _ hmem => absurd hmem List.not_mem_nil
  | succ k ih =>
    intro s r hmem
    obtain ⟨t, hstep⟩ := step_completes s
    rw [responses_succ hstep, List.mem_cons] at hmem
    obtain hfirst | hlater := hmem
    · exact isByteOrFrame_of_step hstep hfirst.symm
    · exact ih t r hlater

/-! ### Assembling a parsed line (30_encoding.md R41) -/

theorem assembleLine_of_inRange {l : AsmLine} (h : ∀ n ∈ l.operands, n ≤ 255) : assembleLine l = .ok l.commands :=
  if_pos (List.all_eq_true.mpr fun n hn => decide_eq_true (Nat.lt_succ_of_le (h n hn)))

theorem assembleLine_of_outOfRange {l : AsmLine} (h : ∃ n ∈ l.operands, 255 < n) :
    assembleLine l = .error .operandOutOfRange := by
  obtain ⟨n, hn, hwide⟩ := h
  refine if_neg fun hall => ?_
  have hlt : n < 256 := of_decide_eq_true (List.all_eq_true.mp hall n hn)
  omega

/-- Settles O45: the two kinds of line, and an error is no list of commands. -/
theorem assemblerRefusesOperandsOutsideAByte : Obligations.AssemblerRefusesOperandsOutsideAByte := by
  intro l
  refine ⟨⟨fun ⟨is, hok⟩ n hn => ?_, fun h => ⟨_, assembleLine_of_inRange h⟩⟩, assembleLine_of_outOfRange⟩
  by_contra hwide
  rw [assembleLine_of_outOfRange ⟨n, hn, Nat.lt_of_not_le hwide⟩] at hok
  cases hok

/-! ### Taking a line of text apart (30_encoding.md R41; log entry 9) -/

/-- A comment is cut off where its semicolon stands. -/
theorem stripComment_append {cs : List Char} (h : ';' ∉ cs) (comment : List Char) :
    stripComment (cs ++ ';' :: comment) = cs := by
  have hkept : ∀ c ∈ cs, (c != ';') = true := fun c hc => bne_iff_ne.mpr fun heq => h (heq ▸ hc)
  rw [stripComment, List.takeWhile_append_of_pos hkept]
  simp

/-- Nothing is trimmed from a text whose first and last characters are not blank. -/
theorem trimBlanks_eq_self {cs : List Char} (hfirst : ∀ c ∈ cs.head?, isBlank c = false)
    (hlast : ∀ c ∈ cs.getLast?, isBlank c = false) : trimBlanks cs = cs := by
  have hkept : ∀ l : List Char, (∀ c ∈ l.head?, isBlank c = false) → l.dropWhile isBlank = l := by
    rintro (_ | ⟨c, l⟩) h
    · rfl
    · exact List.dropWhile_cons_of_neg (by simp [h c rfl])
  rw [trimBlanks, hkept cs hfirst, hkept cs.reverse (by rwa [List.head?_reverse]), List.reverse_reverse]

/-- A blank before a text is trimmed. -/
@[simp] theorem trimBlanks_space_cons (cs : List Char) : trimBlanks (' ' :: cs) = trimBlanks cs := rfl

/-- A text without the separator is one piece. -/
theorem cutAt_of_not_mem {sep : Char} {w : List Char} (h : sep ∉ w) : cutAt sep w = [w] := by
  induction w with
  | nil => rfl
  | cons c w ih =>
    obtain ⟨hc, hw⟩ := List.ne_and_not_mem_of_not_mem_cons h
    simp [cutAt, hc.symm, ih hw]

/-- The first piece of a text ends where the separator first stands. -/
theorem cutAt_append {sep : Char} {w : List Char} (h : sep ∉ w) (cs : List Char) :
    cutAt sep (w ++ sep :: cs) = w :: cutAt sep cs := by
  induction w with
  | nil => simp [cutAt]
  | cons c w ih =>
    obtain ⟨hc, hw⟩ := List.ne_and_not_mem_of_not_mem_cons h
    simp [cutAt, hc.symm, ih hw]

/-- A trimmed line is its mnemonic, up to the first blank, and then its operands. -/
theorem readTrimmed_append {mnemonic tail : List Char} {ops : List Nat} (hne : mnemonic ≠ [])
    (hmnemonic : ∀ c ∈ mnemonic, isBlank c = false) (htail : ∀ c ∈ tail.head?, isBlank c = true)
    (hops : readOperands (trimBlanks tail) = some ops) :
    readTrimmed (mnemonic ++ tail) = (lineOf mnemonic ops).map some := by
  have hkept : ∀ c ∈ mnemonic, (!isBlank c) = true := fun c hc => by rw [hmnemonic c hc]; rfl
  have hsplit : tail.takeWhile (fun c => !isBlank c) = [] ∧ tail.dropWhile (fun c => !isBlank c) = tail := by
    cases tail with
    | nil => exact ⟨rfl, rfl⟩
    | cons c tail => simp [htail c rfl]
  cases mnemonic with
  | nil => exact absurd rfl hne
  | cons m ms =>
    rw [List.cons_append, readTrimmed, ← List.cons_append, List.takeWhile_append_of_pos hkept,
      List.dropWhile_append_of_pos hkept, hsplit.1, hsplit.2, hops, List.append_nil]

/-! ### The text of operands -/

/-- A hexadecimal digit is neither white space nor a separator, and reads back as its value. -/
theorem hexDigit_spec {n : Nat} (h : n < 16) :
    isBlank (hexDigit n) = false ∧ hexDigit n ≠ ',' ∧ hexDigit n ≠ ';' ∧ digitValue 16 (hexDigit n) = some n := by
  revert n
  decide

/-- The text of a byte holds neither white space nor a separator. -/
theorem of_mem_showByte {b : Byte} {c : Char} (h : c ∈ showByte b) : isBlank c = false ∧ c ≠ ',' ∧ c ≠ ';' := by
  have := b.isLt
  obtain ⟨hblank₁, hcomma₁, hsemi₁, -⟩ := hexDigit_spec (show b.toNat / 16 < 16 by omega)
  obtain ⟨hblank₀, hcomma₀, hsemi₀, -⟩ := hexDigit_spec (show b.toNat % 16 < 16 by omega)
  simp only [showByte, List.mem_cons, List.not_mem_nil, or_false] at h
  obtain rfl | rfl | rfl | rfl := h
  · decide
  · decide
  · exact ⟨hblank₁, hcomma₁, hsemi₁⟩
  · exact ⟨hblank₀, hcomma₀, hsemi₀⟩

@[simp] theorem comma_not_mem_showByte (b : Byte) : ',' ∉ showByte b :=
  fun h => (of_mem_showByte h).2.1 rfl

@[simp] theorem semicolon_not_mem_showByte (b : Byte) : ';' ∉ showByte b :=
  fun h => (of_mem_showByte h).2.2 rfl

theorem showByte_ne_nil (b : Byte) : showByte b ≠ [] :=
  List.cons_ne_nil _ _

/-- A text that does not begin with white space and ends with the text of a byte stays as it is. -/
theorem trimBlanks_append_showByte {cs : List Char} (hcs : ∀ c ∈ cs.head?, isBlank c = false) (b : Byte) :
    trimBlanks (cs ++ showByte b) = cs ++ showByte b := by
  apply trimBlanks_eq_self
  · cases cs with
    | nil => exact fun c hc => (of_mem_showByte (List.mem_of_head? hc)).1
    | cons c cs => exact hcs
  · rw [List.getLast?_append_of_ne_nil _ (showByte_ne_nil b)]
    exact fun c hc => (of_mem_showByte (List.mem_of_getLast? hc)).1

@[simp] theorem trimBlanks_showByte (b : Byte) : trimBlanks (showByte b) = showByte b :=
  trimBlanks_append_showByte (cs := []) (by simp) b

/-- The text of a byte reads back as the byte. -/
@[simp] theorem readNumber_showByte (b : Byte) : readNumber (showByte b) = some b.toNat := by
  have := b.isLt
  obtain ⟨-, -, -, hhigh⟩ := hexDigit_spec (show b.toNat / 16 < 16 by omega)
  obtain ⟨-, -, -, hlow⟩ := hexDigit_spec (show b.toNat % 16 < 16 by omega)
  have hdigits : readDigits 16 0 [hexDigit (b.toNat / 16), hexDigit (b.toNat % 16)] =
      some (16 * (b.toNat / 16) + b.toNat % 16) := by
    simp [readDigits, hhigh, hlow]
  rw [Nat.div_add_mod] at hdigits
  exact hdigits

/-! ### The text of a command -/

/-- The source line of one command. -/
def lineOfCommand : Instr → AsmLine
  | .clr => .clr
  | .add b => .add b.toNat
  | .rdsum => .rdsum
  | .build f t s c => .build f.toNat t.toNat s.toNat c.toNat

/-- The mnemonic of a command. -/
def mnemonicOf : Instr → List Char
  | .clr => ['C', 'L', 'R']
  | .add _ => ['A', 'D', 'D']
  | .rdsum => ['R', 'D', 'S', 'U', 'M']
  | .build _ _ _ _ => ['B', 'U', 'I', 'L', 'D']

/-- The text of a command after its mnemonic: nothing, or a blank and the operands. -/
def operandText : Instr → List Char
  | .clr | .rdsum => []
  | .add b => ' ' :: showByte b
  | .build f t s c =>
    ' ' :: (showByte f ++ ',' :: ' ' :: (showByte t ++ ',' :: ' ' :: (showByte s ++ ',' :: ' ' :: showByte c)))

theorem showCommand_eq_append (i : Instr) : showCommand i = mnemonicOf i ++ operandText i := by
  cases i <;> simp [showCommand, mnemonicOf, operandText]

theorem mnemonicOf_ne_nil (i : Instr) : mnemonicOf i ≠ [] := by
  cases i <;> simp [mnemonicOf]

theorem isBlank_of_mem_mnemonicOf (i : Instr) : ∀ c ∈ mnemonicOf i, isBlank c = false := by
  cases i <;> simp [mnemonicOf, isBlank]

theorem isBlank_of_head_operandText (i : Instr) : ∀ c ∈ (operandText i).head?, isBlank c = true := by
  cases i <;> simp [operandText, isBlank]

theorem lineOf_mnemonicOf (i : Instr) : lineOf (mnemonicOf i) i.operands = .ok (lineOfCommand i) := by
  cases i <;> rfl

theorem semicolon_not_mem_showCommand (i : Instr) : ';' ∉ showCommand i := by
  cases i <;> simp [showCommand]

/-- No white space stands at the ends of a command's text. -/
theorem trimBlanks_showCommand (i : Instr) : trimBlanks (showCommand i) = showCommand i := by
  cases i with
  | clr => rfl
  | rdsum => rfl
  | add b => exact trimBlanks_append_showByte (by simp [isBlank]) b
  | build f t s c => exact trimBlanks_append_showByte (by simp [isBlank]) c

/-- Operands that are there are cut at the commas, and each is read without the white space around it. -/
theorem readOperands_of_ne_nil {cs : List Char} (h : cs ≠ []) :
    readOperands cs = (cutAt ',' cs).mapM fun w => readNumber (trimBlanks w) :=
  if_neg (by simpa using h)

/-- The operands of a command read back from its text. -/
theorem readOperands_operandText (i : Instr) : readOperands (trimBlanks (operandText i)) = some i.operands := by
  cases i with
  | clr => rfl
  | rdsum => rfl
  | add b =>
    rw [operandText, trimBlanks_space_cons, trimBlanks_showByte, readOperands_of_ne_nil (showByte_ne_nil b),
      cutAt_of_not_mem (comma_not_mem_showByte b)]
    simp [Instr.operands]
  | build f t s c =>
    have hcut_last : cutAt ',' (' ' :: showByte c) = [' ' :: showByte c] := cutAt_of_not_mem (by simp)
    have hcut : ∀ (b : Byte) (cs : List Char),
        cutAt ',' (' ' :: (showByte b ++ ',' :: cs)) = (' ' :: showByte b) :: cutAt ',' cs := fun b cs =>
      cutAt_append (w := ' ' :: showByte b) (by simp) cs
    have htrim := trimBlanks_append_showByte
      (cs := showByte f ++ [',', ' '] ++ showByte t ++ [',', ' '] ++ showByte s ++ [',', ' '])
      (by simp [showByte, isBlank]) c
    simp only [List.append_assoc, List.cons_append, List.nil_append] at htrim
    rw [operandText, trimBlanks_space_cons, htrim, readOperands_of_ne_nil (by simp),
      cutAt_append (comma_not_mem_showByte f), hcut, hcut, hcut_last]
    simp [Instr.operands]

/-- The text of a command, with any comment, is the command's line. -/
theorem readLine_showCommand (i : Instr) (comment : List Char) :
    readLine (showCommand i ++ ';' :: comment) = .ok (some (lineOfCommand i)) := by
  rw [readLine, stripComment_append (semicolon_not_mem_showCommand i), trimBlanks_showCommand,
    showCommand_eq_append, readTrimmed_append (mnemonicOf_ne_nil i) (isBlank_of_mem_mnemonicOf i)
      (isBlank_of_head_operandText i) (readOperands_operandText i), lineOf_mnemonicOf]
  rfl

@[simp] theorem operandByte_toNat (b : Byte) : operandByte b.toNat = b := by
  simp [operandByte]

/-- The line of one command stands for that command. -/
theorem assembleLine_lineOfCommand (i : Instr) : assembleLine (lineOfCommand i) = .ok [i] := by
  cases i <;> simp [assembleLine, lineOfCommand, AsmLine.operands, AsmLine.commands]

/-- Settles O46: the line is read back from the text, and stands for the command. -/
theorem textOfCommandAssemblesToIt : Obligations.TextOfCommandAssemblesToIt := by
  intro i comment
  rw [assembleText, readLine_showCommand]
  exact assembleLine_lineOfCommand i

end Sys2Proof.Machine

namespace Sys2Proof.Machine

/-! ### The running sum: what one step does to ACC and to its checksum (10_state.md R11; 40_checksum.md R56) -/

/-- The ACC that an effect on the running sum leaves. -/
def AccEffect.applyTo (acc : Byte) : AccEffect → Byte
  | .keep => acc
  | .restart => 0
  | .append b => add8 acc b

/-- The access table of 10_state.md R11 says what a step does to ACC. -/
theorem step_acc {s t : State} (h : step s = .next t) : t.acc = (accEffect s.presented).applyTo s.acc := by
  obtain ⟨hevent, rfl⟩ | ⟨hevent, rfl⟩ | ⟨cw, hevent, hexec⟩ := step_cases h
  · simp [accEffect, hevent, AccEffect.applyTo]
  · simp [accEffect, hevent, AccEffect.applyTo]
  · obtain ⟨hdecode, rfl⟩ | ⟨b, hdecode, rfl⟩ | ⟨hdecode, rfl⟩ | ⟨f, g, r, c, hdecode, rfl⟩ := exec_cases hexec <;>
      simp [accEffect, hevent, hdecode, AccEffect.applyTo]

/-- Concatenation adds checksums (40_checksum.md R57, law 2). -/
theorem sum8_append (B C : List Byte) : sum8 (B ++ C) = sum8 B + sum8 C := by
  apply BitVec.eq_of_toNat_eq
  simp only [BitVec.toNat_add, sum8_toNat, List.map_append, List.sum_append]
  exact Nat.add_mod _ _ _

/-- The checksum of one byte is the byte: whatever ACC holds is the checksum of some sequence. -/
@[simp] theorem sum8_singleton (b : Byte) : sum8 [b] = b := by
  apply BitVec.eq_of_toNat_eq
  simp [sum8_toNat, Nat.mod_eq_of_lt b.isLt]

/-- A step does to the checksum of the bytes summed what it does to ACC. -/
theorem sum8_summedAfter (summed : List Byte) (p : PortIn) :
    sum8 (summedAfter summed p) = (accEffect p).applyTo (sum8 summed) := by
  cases heffect : accEffect p with
  | keep => simp [summedAfter, heffect, AccEffect.applyTo]
  | restart => simp [summedAfter, heffect, AccEffect.applyTo]
  | append b => simp [summedAfter, heffect, AccEffect.applyTo, sum8_append, add8_eq_add]

/-- Settles O26: ACC and the checksum of the bytes summed follow the same effect. -/
theorem stepKeepsAccAsChecksum : Obligations.StepKeepsAccAsChecksum := by
  intro s t summed hacc hstep
  rw [step_acc hstep, sum8_summedAfter, hacc]

/-! ### The running sum over a run -/

/-- A run whose first step is known goes on from its answer. -/
theorem runSteps_succ {s t : State} (h : step s = .next t) (k : Nat) : runSteps (k + 1) s = runSteps k t := by
  simp only [runSteps, h]

/-- A run goes on from the state that its first part ends in (70_reset_and_hazards.md R97). -/
theorem runSteps_add {k : Nat} {s t : State} (h : runSteps k s = .next t) (j : Nat) :
    runSteps (k + j) s = runSteps j t := by
  induction k generalizing s with
  | zero =>
    cases h
    rw [Nat.zero_add]
  | succ k ih =>
    obtain ⟨u, hstep⟩ := step_completes s
    rw [runSteps_succ hstep] at h
    rw [Nat.add_right_comm, runSteps_succ hstep, ih h]

/-- Running over some samples leaves in ACC the checksum of the bytes summed after them, and the other samples to come. -/
theorem runSteps_over_samples {s : State} {summed : List Byte} {ps rest : List PortIn} (hacc : s.acc = sum8 summed)
    (hinputs : s.inputs = ps ++ rest) :
    ∃ t, runSteps ps.length s = .next t ∧ t.acc = sum8 (summedAfterAll summed ps) ∧ t.inputs = rest := by
  induction ps generalizing s summed with
  | nil => exact ⟨s, rfl, hacc, hinputs⟩
  | cons p ps ih =>
    obtain ⟨u, hstep⟩ := step_completes s
    have hacc' : u.acc = sum8 (summedAfter summed p) := by
      rw [stepKeepsAccAsChecksum s u summed hacc hstep, State.presented_cons hinputs]
    have hinputs' : u.inputs = ps ++ rest := by
      rw [step_inputs hstep, hinputs, List.cons_append, List.tail_cons]
    obtain ⟨t, hrun, hfields⟩ := ih hacc' hinputs'
    exact ⟨t, (runSteps_succ hstep ps.length).trans hrun, hfields⟩

/-- Samples that restart nothing only append the bytes of their ADDs. -/
theorem summedAfterAll_of_noRestart {ps : List PortIn} (h : noRestart ps = true) (summed : List Byte) :
    summedAfterAll summed ps = summed ++ addedBytes ps := by
  induction ps generalizing summed with
  | nil => simp [summedAfterAll, addedBytes]
  | cons p ps ih =>
    obtain ⟨hp, hps⟩ : accEffect p ≠ .restart ∧ noRestart ps = true := by simpa [noRestart] using h
    have hrec : summedAfterAll summed (p :: ps) = summedAfter summed p ++ addedBytes ps := ih hps _
    rw [hrec]
    cases heffect : accEffect p with
    | keep => simp [summedAfter, addedBytes, heffect]
    | restart => exact absurd heffect hp
    | append b => simp [summedAfter, addedBytes, heffect]

/-! ### Compute sequences (40_checksum.md R56) -/

@[simp] theorem accEffect_encode_clr : accEffect (PortIn.ofWord (encode .clr)) = .restart := by
  simp [accEffect]

@[simp] theorem accEffect_encode_add (b : Byte) : accEffect (PortIn.ofWord (encode (.add b))) = .append b := by
  simp [accEffect]

/-- A step that is given a canonical word executes its command. -/
theorem step_of_encode {s : State} {i : Instr} {rest : List PortIn} (h : s.inputs = PortIn.ofWord (encode i) :: rest) :
    step s = exec i { s with inputs := rest } := by
  rw [stepRunsPresentedCommand s _ rest h rfl rfl]
  exact congrArg (exec · _) (decode_encode i)

/-- Settles O30: whatever ACC holds is a checksum, which the CLR restarts; the samples after it append the bytes of their
ADDs, and the RDSUM answers ACC. -/
theorem computeSequenceToleratesOtherSteps : Obligations.ComputeSequenceToleratesOtherSteps := by
  intro s mid rest hmid hinputs
  obtain ⟨t, hrun, hacc, hrest⟩ := runSteps_over_samples (ps := PortIn.ofWord (encode .clr) :: mid)
    (sum8_singleton s.acc).symm hinputs
  have hsummed : summedAfterAll [s.acc] (PortIn.ofWord (encode .clr) :: mid) = addedBytes mid := by
    have hrestart : summedAfter [s.acc] (PortIn.ofWord (encode .clr)) = [] := by simp [summedAfter]
    rw [summedAfterAll, List.foldl_cons, hrestart]
    exact summedAfterAll_of_noRestart hmid []
  rw [hsummed] at hacc
  calc runSteps (mid.length + 2) s
      = runSteps 1 t := runSteps_add hrun 1
    _ = exec .rdsum { t with inputs := rest } := by rw [runSteps_succ (step_of_encode hrest)]; rfl
    _ = .next { acc := sum8 (addedBytes mid), rsp := some (zext40 (sum8 (addedBytes mid))), inputs := rest } := by
      rw [exec_rdsum, ← hacc]
      rfl

/-- The ADDs of a compute sequence restart nothing. -/
theorem noRestart_adds (bytes : List Byte) : noRestart (presentCommands (bytes.map Instr.add)) = true := by
  simp [noRestart, presentCommands]

/-- The ADDs of a compute sequence add its bytes. -/
theorem addedBytes_adds (bytes : List Byte) : addedBytes (presentCommands (bytes.map Instr.add)) = bytes := by
  simp [addedBytes, presentCommands, List.filterMap_map, Function.comp_def]

/-- The samples of a compute sequence: its CLR, its ADDs, its RDSUM. -/
theorem presentCommands_computeCommands (bytes : List Byte) :
    presentCommands (computeCommands bytes) =
      PortIn.ofWord (encode .clr) :: presentCommands (bytes.map Instr.add) ++ [PortIn.ofWord (encode .rdsum)] := by
  simp [presentCommands, computeCommands]

/-- Settles O29: the sequence with nothing but its own ADDs between its CLR and its RDSUM. -/
theorem computeSequenceAnswersChecksum : Obligations.ComputeSequenceAnswersChecksum := by
  intro s bytes rest
  refine ⟨by simp [computeCommands], fun hinputs => ?_⟩
  rw [presentCommands_computeCommands, List.append_assoc, List.singleton_append] at hinputs
  have hrun := computeSequenceToleratesOtherSteps s _ rest (noRestart_adds bytes) hinputs
  have hlength : (presentCommands (bytes.map Instr.add)).length = bytes.length := by simp [presentCommands]
  rwa [addedBytes_adds, hlength] at hrun

/-! ### The laws of the checksum (40_checksum.md R50, R51, R57, R58) -/

/-- Concatenation adds checksums, as numbers. -/
theorem sum8_append_toNat (B C : List Byte) : (sum8 (B ++ C)).toNat = ((sum8 B).toNat + (sum8 C).toNat) % 256 := by
  rw [sum8_append, BitVec.toNat_add]

/-- The order of the bytes does not matter (40_checksum.md R57, law 1). -/
theorem sum8_perm {B C : List Byte} (h : B.Perm C) : sum8 B = sum8 C := by
  simp only [sum8, (h.map BitVec.toNat).sum_eq]

/-- A byte adds itself wherever it stands. -/
theorem sum8_middle (B C : List Byte) (x : Byte) : sum8 (B ++ x :: C) = sum8 (B ++ C) + x := by
  have hlast : (B ++ x :: C).Perm (B ++ C ++ [x]) := List.perm_middle.trans (List.perm_append_singleton _ _).symm
  rw [sum8_perm hlast, sum8_append, sum8_singleton]

/-- Settles O36. -/
theorem checksumIsSumModulo256 : Obligations.ChecksumIsSumModulo256 :=
  ⟨sum8_nil, sum8_toNat, fun bytes b => by rw [sum8_append_toNat, sum8_singleton]⟩

/-- Settles O37. -/
theorem checksumIgnoresOrderAndZeros : Obligations.ChecksumIgnoresOrderAndZeros :=
  ⟨fun _ _ => sum8_perm, sum8_append_toNat, fun B C => by rw [sum8_middle]; exact BitVec.add_zero _⟩

/-- 256 equal bytes, or any multiple of it, sum to a multiple of 256 (40_checksum.md R57, law 4). -/
theorem sum8_replicate (b : Byte) (m : Nat) : sum8 (List.replicate (256 * m) b) = 0 := by
  apply BitVec.eq_of_toNat_eq
  rw [sum8_toNat, List.map_replicate, List.sum_replicate, smul_eq_mul, Nat.mul_assoc, Nat.mul_mod_right]
  rfl

/-- Settles O38: the run of equal bytes adds its own checksum, which is 0. -/
theorem checksumWrapsAt256EqualBytes : Obligations.ChecksumWrapsAt256EqualBytes := by
  refine ⟨fun b m B C => ?_, by decide⟩
  simp only [sum8_append, sum8_replicate, add_zero]

/-- Settles O39: both sequences add one byte to the checksum of the bytes around it. -/
theorem checksumDetectsOneChangedByte : Obligations.ChecksumDetectsOneChangedByte := by
  intro B C x y
  rw [sum8_middle, sum8_middle]
  exact ⟨by abel, by rw [add_right_inj, eq_comm]⟩

/-- Settles O40: the frame is its header and then the header's checksum. -/
theorem frameTotalIsTwiceChecksum : Obligations.FrameTotalIsTwiceChecksum := by
  intro f t s c
  have hbytes : (frame f t s c).bytes = [f, t, s, c] ++ [(frame f t s c).cks] := rfl
  have hcks : sum8 [f, t, s, c] = (frame f t s c).cks := rfl
  rw [hbytes, sum8_append_toNat, sum8_singleton, hcks, Nat.two_mul]

/-! ### The checksum generator's three commands (40_checksum.md R53 to R55) -/

/-- Every command but CLR carries a difference in ACC on: ADD by cancellation, RDSUM and BUILD by keeping ACC. -/
theorem exec_acc_ne {i : Instr} {s s' t t' : State} (hi : i ≠ .clr) (hacc : s.acc ≠ s'.acc) (h : exec i s = .next t)
    (h' : exec i s' = .next t') : t.acc ≠ t'.acc := by
  cases i with
  | clr => exact absurd rfl hi
  | add b =>
    cases h
    cases h'
    simpa [add8_eq_add] using hacc
  | rdsum =>
    cases h
    cases h'
    exact hacc
  | build f g r c =>
    cases h
    cases h'
    exact hacc

/-- Settles O11. -/
theorem clrSetsAccToZero : Obligations.ClrSetsAccToZero :=
  ⟨fun _ => decode_of_opcode_clr, rfl, exec_clr, fun _ _ _ _ _ => exec_acc_ne⟩

/-- Settles O12. -/
theorem addAddsModulo256 : Obligations.AddAddsModulo256 :=
  ⟨fun _ => decode_of_opcode_add, encode_add_toNat,
    fun b s => ⟨_, exec_add b s, add8_toNat s.acc b, rfl, rfl⟩⟩

/-- A zero-extended byte stands in the low eight bits. -/
theorem zext40_low (v : Byte) : (zext40 v).extractLsb' 0 8 = v :=
  extractLsb'_eq_of_div_mod (by rw [zext40_toNat, Nat.pow_zero, Nat.div_one, Nat.mod_eq_of_lt v.isLt])

/-- Above a zero-extended byte there are zeros. -/
theorem zext40_high (v : Byte) : (zext40 v).extractLsb' 8 32 = 0 := by
  apply BitVec.eq_of_toNat_eq
  rw [BitVec.extractLsb'_toNat, zext40_toNat, Nat.shiftRight_eq_div_pow, Nat.div_eq_of_lt v.isLt]
  rfl

/-- Settles O13. -/
theorem rdsumPresentsAcc : Obligations.RdsumPresentsAcc :=
  ⟨fun _ => decode_of_opcode_rdsum, rfl,
    fun s => ⟨_, _, exec_rdsum s, rfl, zext40_low s.acc, zext40_high s.acc, rfl, rfl, rfl⟩⟩

end Sys2Proof.Machine


namespace Sys2Proof.Machine

/-! ### BUILD's response, byte by byte and as a number (41_frame_builder.md R60, R61) -/

/-- A frame's checksum is the exact sum of its header modulo 256; the two carry bits are discarded. -/
theorem frame_cks_toNat (f t s c : Byte) :
    (frame f t s c).cks.toNat = (f.toNat + t.toNat + s.toNat + c.toNat) % 256 := by
  simp [frame, sum8_toNat, Nat.add_assoc]

/-- A frame's checksum stands in the low byte of its packed word. -/
theorem pack40_frame_low (f t s c : Byte) : (pack40 (frame f t s c)).extractLsb' 0 8 = (frame f t s c).cks := by
  obtain ⟨-, -, -, -, hcks, -⟩ := packingPutsFirstByteOnTop.1 (frame f t s c)
  exact hcks

/-- Settles O14: the places of the packed bytes, the lowest of them the checksum. -/
theorem buildPresentsFrame : Obligations.BuildPresentsFrame := by
  refine ⟨fun _ => decode_of_opcode_build, encode_build_toNat, fun f t sr c s => ?_⟩
  obtain ⟨hfmt, htgt, hsrc, hcmd, -, -⟩ := packingPutsFirstByteOnTop.1 (frame f t sr c)
  have hsum : ((pack40 (frame f t sr c)).extractLsb' 0 8).toNat =
      (f.toNat + t.toNat + sr.toNat + c.toNat) % 256 := by
    rw [pack40_frame_low, frame_cks_toNat]
  exact ⟨_, _, exec_build f t sr c s, rfl, hfmt, htgt, hsrc, hcmd, hsum, rfl, rfl⟩

/-! ### BUILD and the rest of the block (41_frame_builder.md R62, R64) -/

/-- Settles O15: BUILD changes the response only, which no command reads, and its own response is a function of its
operands. -/
theorem buildAndAccAreIndependent : Obligations.BuildAndAccAreIndependent := by
  intro f t sr c i s s'
  obtain ⟨v, hv⟩ := exec_completes i s
  have hafter : exec i (s.respond (pack40 (frame f t sr c))) = exec i s := exec_eq_of_acc_inputs rfl rfl i
  exact ⟨_, _, v, _, exec_build f t sr c s, exec_build f t sr c s', rfl, rfl, rfl, hafter, hv,
    exec_build f t sr c v, rfl, rfl⟩

/-- Settles O41: BUILD's low byte and the answer of the compute sequence are the checksum of the same four bytes. -/
theorem framePropertiesOfEveryFrame : Obligations.FramePropertiesOfEveryFrame := by
  intro f t s c
  have hcks : (frame f t s c).cks = BitVec.ofNat 8 ((f.toNat + t.toNat + s.toNat + c.toNat) % 256) := by
    apply BitVec.eq_of_toNat_eq
    rw [frame_cks_toNat, BitVec.toNat_ofNat, Nat.mod_mod]
  refine ⟨rfl, by rw [← hcks]; rfl, rfl, fun st rest hinputs => ?_⟩
  have hrun := (computeSequenceAnswersChecksum st [f, t, s, c] rest).2 hinputs
  refine ⟨_, _, _, hrun, exec_build f t s c st, rfl, ?_⟩
  rw [pack40_frame_low]
  rfl

/-! ### The catalogue (41_frame_builder.md R65 to R69) -/

/-- Settles O43: each fixed frame is evaluated once, and BUILD's rule presents it from every state. -/
theorem catalogueFrames : Obligations.CatalogueFrames := by
  have hwake : pack40 (frame 0x81 wakeTarget testerAddress 0x81) = 0x8113F18106 := by decide
  have hconn : pack40 (frame 0x81 absController testerAddress 0x81) = 0x811CF1810F := by decide
  have hrdtc : pack40 (frame 0x80 absController testerAddress 0x21) = 0x801CF121AE := by decide
  have hact : pack40 (frame 0x80 absController testerAddress 0x30) = 0x801CF130BD := by decide
  refine ⟨rfl, by decide, rfl, by decide, rfl, by decide, rfl, by decide, fun s => ⟨?_, ?_, ?_, ?_⟩⟩
  · rw [wakeCommand, exec_build, hwake]; rfl
  · rw [absConnCommand, exec_build, hconn]; rfl
  · rw [absRdtcCommand, exec_build, hrdtc]; rfl
  · rw [absActCommand, exec_build, hact]; rfl

theorem assembleLine_probe (A : Byte) : assembleLine (.probe A.toNat) = .ok [probeCommand A] := by
  have hrange : ∀ n ∈ (AsmLine.probe A.toNat).operands, n ≤ 255 := by
    have := A.isLt
    simp only [AsmLine.operands, List.mem_singleton, forall_eq]
    omega
  rw [assembleLine_of_inRange hrange, AsmLine.commands, operandByte_toNat]

theorem encode_probeCommand_toNat (A : Byte) :
    (encode (probeCommand A)).toNat = 0x38100F181 + A.toNat * 2 ^ 16 := by
  rw [probeCommand, encode_build_toNat]
  simp only [testerAddress, BitVec.reduceToNat]
  omega

/-- The probe's checksum: 0x81 + 0xF1 + 0x81 = 0x1F3. -/
theorem frame_probe_cks_toNat (A : Byte) : (frame 0x81 A testerAddress 0x81).cks.toNat = (0xF3 + A.toNat) % 256 := by
  rw [frame_cks_toNat]
  simp only [testerAddress, BitVec.reduceToNat]
  omega

theorem pack40_frame_probe_toNat (A : Byte) :
    (pack40 (frame 0x81 A testerAddress 0x81)).toNat = 0x8100F18100 + A.toNat * 2 ^ 24 + (0xF3 + A.toNat) % 256 := by
  rw [pack40_toNat, frame_probe_cks_toNat]
  simp only [frame, testerAddress, BitVec.reduceToNat]
  omega

/-- Settles O44: the probe's line, word and response by the rules of the assembler, the encoder and BUILD; on the
scanner's range the checksum passes 256 exactly once. -/
theorem probeFrames : Obligations.ProbeFrames := by
  refine ⟨fun A => ⟨assembleLine_probe A, encode_probeCommand_toNat A, fun s => ?_⟩, rfl, rfl⟩
  refine ⟨_, _, exec_build 0x81 A testerAddress 0x81 s, rfl, rfl, rfl, pack40_frame_probe_toNat A,
    fun hlow hhigh => ?_⟩
  rw [pack40_frame_low, frame_probe_cks_toNat]
  omega

end Sys2Proof.Machine


namespace Sys2Proof.Machine

/-! ### Faults and priority (60_exceptions.md R80, R82) -/

/-- Settles O19: every command completes, and so do the three events of a step. -/
theorem noCommandFails : Obligations.NoCommandFails :=
  ⟨exec_completes, step_completes⟩

/-- Settles O20: `rst` alone makes the event a reset, so the word presented beside it is never decoded. -/
theorem resetWinsOverCommand : Obligations.ResetWinsOverCommand := by
  intro s p rest hinputs hrst
  have hevent : eventOf s.presented = .reset := by rw [State.presented_cons hinputs, eventOf_rst hrst]
  rw [step_of_reset hevent, State.consumeInput_of_cons hinputs]
  rfl

end Sys2Proof.Machine


namespace Sys2Proof.Machine

/-! ### Presented commands, one sample each -/

@[simp] theorem presentCommands_cons (i : Instr) (is : List Instr) :
    presentCommands (i :: is) = PortIn.ofWord (encode i) :: presentCommands is := rfl

@[simp] theorem presentCommands_append (is js : List Instr) :
    presentCommands (is ++ js) = presentCommands is ++ presentCommands js :=
  List.map_append

@[simp] theorem presentCommands_length (is : List Instr) : (presentCommands is).length = is.length :=
  List.length_map _

/-! ### Runs of any length (70_reset_and_hazards.md R97) -/

/-- A run completes and takes one sample a step off the host's list. -/
theorem runSteps_completes (k : Nat) (s : State) : ∃ t, runSteps k s = .next t ∧ t.inputs = s.inputs.drop k := by
  induction k generalizing s with
  | zero => exact ⟨s, rfl, rfl⟩
  | succ k ih =>
    obtain ⟨u, hstep⟩ := step_completes s
    obtain ⟨t, hrun, hinputs⟩ := ih u
    refine ⟨t, (runSteps_succ hstep k).trans hrun, ?_⟩
    rw [hinputs, step_inputs hstep, List.drop_tail]

/-- A run presents one response a step. -/
theorem responses_length (k : Nat) (s : State) : (responses k s).length = k := by
  induction k generalizing s with
  | zero => rfl
  | succ k ih =>
    obtain ⟨u, hstep⟩ := step_completes s
    rw [responses_succ hstep, List.length_cons, ih]

/-- Settles O28: completion and consumption together, the count of responses, and the run cut in two. -/
theorem everyRunCompletes : Obligations.EveryRunCompletes := by
  intro k s
  obtain ⟨t, hrun, hinputs⟩ := runSteps_completes k s
  exact ⟨t, hrun, hinputs, responses_length k s, runSteps_add hrun⟩

/-! ### The rest of a compute sequence, after a reset or after another sequence (70_reset_and_hazards.md R90, R93) -/

/-- ADDs and an RDSUM answer the checksum of the bytes already in ACC and their own. -/
theorem runSteps_adds_rdsum {s : State} {summed bytes : List Byte} {rest : List PortIn} (hacc : s.acc = sum8 summed)
    (hinputs : s.inputs = presentCommands (bytes.map Instr.add ++ [.rdsum]) ++ rest) :
    runSteps (bytes.length + 1) s =
      .next { acc := sum8 (summed ++ bytes), rsp := some (zext40 (sum8 (summed ++ bytes))), inputs := rest } := by
  rw [presentCommands_append, List.append_assoc] at hinputs
  obtain ⟨t, hrun, hsum, hrest⟩ := runSteps_over_samples hacc hinputs
  rw [presentCommands_length, List.length_map] at hrun
  rw [summedAfterAll_of_noRestart (noRestart_adds bytes), addedBytes_adds] at hsum
  calc runSteps (bytes.length + 1) s
      = runSteps 1 t := runSteps_add hrun 1
    _ = exec .rdsum { t with inputs := rest } := by rw [runSteps_succ (step_of_encode hrest)]; rfl
    _ = .next { acc := sum8 (summed ++ bytes), rsp := some (zext40 (sum8 (summed ++ bytes))), inputs := rest } := by
      rw [exec_rdsum, ← hsum]
      rfl

/-- Several resets in a row are one reset. -/
theorem runSteps_resets {s : State} {rs rest : List PortIn} (hne : rs ≠ []) (hrst : ∀ p ∈ rs, p.rst = true)
    (hinputs : s.inputs = rs ++ rest) :
    runSteps rs.length s = .next { acc := 0, rsp := none, inputs := rest } := by
  induction rs generalizing s with
  | nil => exact absurd rfl hne
  | cons p rs ih =>
    obtain ⟨hp, hrs⟩ := List.forall_mem_cons.mp hrst
    have hstep := resetWinsOverCommand s p (rs ++ rest) hinputs hp
    rw [List.length_cons, runSteps_succ hstep]
    by_cases hlast : rs = []
    · subst hlast
      rfl
    · exact ih hlast hrs rfl

/-- Settles O21: the resets leave the empty sum, and the ADDs after them go on from it. -/
theorem resetRestartsTheSum : Obligations.ResetRestartsTheSum := by
  intro s rs rest bytes hne hrst
  refine ⟨runSteps_resets hne hrst, fun hinputs => ?_⟩
  rw [List.append_assoc] at hinputs
  rw [runSteps_add (runSteps_resets hne hrst hinputs)]
  exact runSteps_adds_rdsum (summed := []) sum8_nil.symm rfl

/-- Settles O31: the inner sequence restarts the sum, so the outer one goes on from the inner bytes instead of its own
earlier ones. -/
theorem interleavedSequencesCorruptTheFirst : Obligations.InterleavedSequencesCorruptTheFirst := by
  intro s xs ys zs rest hinputs
  have hsplit : s.inputs = presentCommands (.clr :: xs.map Instr.add) ++
      (presentCommands (computeCommands ys) ++ (presentCommands (zs.map Instr.add ++ [.rdsum]) ++ rest)) := by
    simpa using hinputs
  obtain ⟨t, houter, -, hinner⟩ := runSteps_over_samples (sum8_singleton s.acc).symm hsplit
  rw [presentCommands_length, List.length_cons, List.length_map] at houter
  have hrun := (runSteps_add houter (ys.length + 2)).trans ((computeSequenceAnswersChecksum t ys _).2 hinner)
  refine ⟨⟨_, hrun, rfl⟩, ⟨_, (runSteps_add hrun _).trans (runSteps_adds_rdsum rfl rfl), rfl, rfl⟩, ?_⟩
  rw [sum8_append, sum8_append, add_left_inj]

/-! ### The boot duty (70_reset_and_hazards.md R92) -/

/-- An RDSUM leaves the running sum as it is. -/
theorem accEffect_of_readsSum {p : PortIn} (h : readsSum p = true) : accEffect p = .keep := by
  obtain ⟨-, hevent⟩ | ⟨-, -, hevent⟩ | ⟨-, -, hevent⟩ := eventOf_cases p
  · simp [readsSum, hevent] at h
  · have hdecode : decode p.cw = .rdsum := by simpa [readsSum, hevent] using h
    simp [accEffect, hevent, hdecode]
  · simp [readsSum, hevent] at h

/-- Under the boot duty the next step reads no sum, and it restarts the sum or leaves the duty to later steps. -/
theorem bootDutyMet_presented {s : State} (h : bootDutyMet s.inputs = true) :
    readsSum s.presented = false ∧ (accEffect s.presented = .restart ∨ bootDutyMet s.inputs.tail = true) := by
  cases hinputs : s.inputs with
  | nil =>
    rw [State.presented_nil hinputs]
    exact ⟨rfl, .inr rfl⟩
  | cons p ps =>
    rw [hinputs, bootDutyMet] at h
    rw [State.presented_cons hinputs, List.tail_cons]
    cases heffect : accEffect p with
    | restart =>
      refine ⟨Bool.eq_false_iff.mpr fun hreads => ?_, .inl rfl⟩
      simp [accEffect_of_readsSum hreads] at heffect
    | append b => simp [heffect] at h
    | keep => simpa [heffect] using h

/-- Under the boot duty no response depends on what ACC holds: the runs from two values answer alike until a restart
makes them one. -/
theorem responses_writeAcc_of_bootDutyMet (k : Nat) {s : State} (h : bootDutyMet s.inputs = true) (a : Byte) :
    responses k s = responses k (s.writeAcc a) := by
  induction k generalizing s a with
  | zero => rfl
  | succ k ih =>
    obtain ⟨hreads, hnext⟩ := bootDutyMet_presented h
    obtain ⟨t, hstep⟩ := step_completes s
    obtain ⟨a', hstep'⟩ := step_writeAcc hreads hstep a
    rw [responses_succ hstep, responses_succ hstep', State.writeAcc_rsp]
    obtain hrestart | hduty := hnext
    · have hacc : t.acc = 0 := by rw [step_acc hstep, hrestart]; rfl
      have hacc' : a' = 0 := by simpa [hrestart, AccEffect.applyTo] using step_acc hstep'
      have hsame : t.writeAcc a' = t := State.eq_of_fields (hacc'.trans hacc.symm) rfl rfl
      rw [hsame]
    · rw [ih (step_inputs hstep ▸ hduty) a']

/-- Settles O34: the power-on states differ in ACC only. -/
theorem bootDutyDefinesAllResponses : Obligations.BootDutyDefinesAllResponses :=
  fun k p _ hduty => responses_writeAcc_of_bootDutyMet k (s := State.poweredOn _) hduty p

/-! ### Before the first reset or CLR (70_reset_and_hazards.md R91) -/

/-- The adder reaches every byte from every addend. -/
theorem add8_sub_cancel (v b : Byte) : add8 (v - b) b = v := by
  rw [add8_eq_add, sub_add_cancel]

/-- Settles O25, event by event. -/
theorem powerOnCommands : Obligations.PowerOnCommands := by
  refine ⟨fun _ => ⟨_, rfl⟩, fun p b _ => ⟨_, exec_add b _, add8_toNat p b⟩,
    fun b v _ => ⟨v - b, _, exec_add b _, add8_sub_cancel v b⟩,
    fun p _ => ⟨_, _, exec_rdsum _, rfl, rfl, zext40_high p, zext40_low p⟩,
    fun _ _ _ => rfl, fun p q c rest hrst => ?_, fun _ f g sr c _ => ⟨_, exec_build f g sr c _, rfl, rfl⟩⟩
  rw [resetWinsOverCommand _ c rest rfl hrst, resetWinsOverCommand _ c rest rfl hrst]

end Sys2Proof.Machine
